-- ==== Sys2Proof/Word.lean ====
section
/-! DEFINITION. The words of the block: every integer is unsigned (R8, R214). -/

namespace Sys2Proof

/-- A byte; every buffer cell, `crc`, `cmd`, `mode` and the status are bytes (R40, R214). -/
abbrev Byte := BitVec 8

/-- A 16-bit container: `ack`, `size`, `len`, raw samples, 12-bit values in a `u16` (R214). -/
abbrev Word := BitVec 16

/-- A flash offset, `u32` (R65). -/
abbrev Offset := BitVec 32

/-- The bit pattern of a binary32 value (R10). -/
abbrev F32 := BitVec 32

end Sys2Proof
end

