-- ==== Sys2Proof/Config.lean ====
section
/-! DEFINITION. What one implementation fixes: the parameters of R7, the two parameter records `ECHO` and `NUM`, and the
free values (opaque constants: nothing can be proved about their value). -/

namespace Sys2Proof.Config

/-- `FRAME_LEN` (R7). -/
def frameLen : Nat := 49
/-- `RESP_MAX` (R7). -/
def respMax : Nat := 0x170
/-- `WDATA_MAX` (R7). -/
def wdataMax : Nat := 29
/-- `ACK_POS` (R7). -/
def ackPos : Nat := 0xD
/-- `INFO_POS` (R7). -/
def infoPos : Nat := 0xF
/-- `INFO_LEN` (R7). -/
def infoLen : Nat := 10
/-- `RDATA_POS` (R7). -/
def rdataPos : Nat := 0x14
/-- `MIN_REPORT` (R7). -/
def minReport : Nat := 12
/-- `SUB_INFO` (R7, R69). -/
def subInfo : Byte := 0x02
/-- `SUB_MODE` (R7, R69). -/
def subMode : Byte := 0x03
/-- `SUB_SPIR` (R7, R69). -/
def subSpir : Byte := 0x10
/-- `SUB_SPIW` (R7, R69). -/
def subSpiw : Byte := 0x11
/-- `MODE_STD` (R7, R77). -/
def modeStd : Byte := 0x30
/-- `ACK_INFO` (R7, R70). -/
def ackInfo : Word := 0x0282
/-- `ACK_SPIW` (R7, R70). -/
def ackSpiw : Word := 0x1180
/-- `ACK_SPIR_SERIAL` (R7, R70). -/
def ackSerial : Word := 0x1090
/-- `ADDR_CAL_L` (R7, R47). -/
def addrCalL : Offset := 0x603D
/-- `ADDR_CAL_R` (R7, R47). -/
def addrCalR : Offset := 0x6046
/-- `ADDR_PAR_L` (R7, R47). -/
def addrParL : Offset := 0x6089
/-- `ADDR_PAR_R` (R7, R47). -/
def addrParR : Offset := 0x609B
/-- `RETRY_OUTER` (R7, R184, R185). -/
def retryOuter : Nat := 20
/-- `RETRY_INNER` (R7, R184, R185). -/
def retryInner : Nat := 8
/-- `T_READ_W`, milliseconds (R7, R185). -/
def tReadW : Nat := 64

/-- The layout of the SPI-read echo (R136): first byte and width in bytes of the echoed offset and size, and an acknowledgment
code that must also stand at 0xD, if any. -/
structure EchoLayout where
  offPos : Nat
  offW : Nat
  sizePos : Nat
  sizeW : Nat
  ack : Option Word
  deriving DecidableEq, Repr

/-- `ECHO_DOC` (R136). -/
def echoDoc : EchoLayout := ⟨0xD, 2, 0xF, 2, none⟩

/-- `ECHO_ALT` (R136): a second instance, not the default. -/
def echoAlt : EchoLayout := ⟨0xF, 4, 0x13, 1, some 0x1090⟩

/-- The layout of this block, the default of R136 (log 4). -/
def echo : EchoLayout := echoDoc

/-- `NUM` (R169): the seven functions of the normalizer's arithmetic, as one record. -/
structure Num where
  i2f : Int → F32
  add : F32 → F32 → F32
  sub : F32 → F32 → F32
  mul : F32 → F32 → F32
  div : F32 → F32 → F32
  sqrt : F32 → F32
  le : F32 → F32 → Bool

/-- FREE VALUE: what an arithmetic function of `NUM` gives where R10 defines none (an operand that is not finite, a zero divisor,
the root of a negative number); no `NORM` reaches it (R170). Log 5. -/
opaque f32Undefined : F32

/-- FREE VALUE: what the order test of `NUM` answers on a NaN, where R10 gives no order; no `NORM` reaches it (R170). Log 5. -/
opaque f32UndefinedOrder : Bool

/-- FREE VALUE: byte `addr` of `FLASH` in epoch `epoch`, while no frame has written it (log 8, log 9). -/
opaque flashByte : Nat → Nat → Byte

/-- FREE VALUE: the 12-bit values of the capture that the spec gives no value (R203; logs 16, 17). -/
opaque freeU12 : Nat → BitVec 12

/-- `TERM_CENTER` (R204), an open predicate on the report `RXBUF[0 .. rx_len-1]` (log 15). -/
opaque termCenter : List Byte → Bool

/-- `TERM_RANGE` (R204), an open predicate on the report (log 15). -/
opaque termRange : List Byte → Bool

/-- Whether an acknowledgment code answers a set-mode frame, an open predicate (R70, R190, R245, N9; log 31). -/
opaque modeAnswer : Word → Bool

/-- `T_READ_R`, open (R7, R186; log 19). -/
opaque tReadR : Nat

/-- `T_READ_I`, open (R7, R184; log 19). -/
opaque tReadI : Nat

/-- The read timeout of the capture loop, open (R201; log 19). -/
opaque tReadC : Nat

/-- The read timeout of the set-mode exchange, open (R190, N9; log 31). -/
opaque tReadM : Nat

/-- `T_SETTLE`, open (R7, R196; log 19). -/
opaque tSettle : Nat

end Sys2Proof.Config
end

