-- ==== Sys2Proof/Syntax.lean ====
section
/-! DEFINITION. The instruction set: one constructor per row of spec/opcode_table.json (R72, R83), and the nine
pseudo-operations of R82. -/

namespace Sys2Proof

/-- Which port a byte string stands on (R71, R127, R180): the encodings of the three ports are separate. -/
inductive Port where
  /-- command transactions, host to block (R71) -/
  | cmd
  /-- command frames, block to device (R60, R127) -/
  | tx
  /-- responses, device to block (R61, R183) -/
  | rx
  deriving DecidableEq, Repr

/-- One constructor per row of the opcode table. A counted byte string carries its own length, so the count field is no operand. -/
inductive Instr where
  /-- R102 -/
  | crc8Init
  /-- R103 -/
  | crc8Upd (b : Byte)
  /-- R104 -/
  | crc8Get
  /-- R105 -/
  | crc8Buf (bytes : List Byte)
  /-- R111 -/
  | seqRst
  /-- R122 -/
  | encInfo (cmd : Byte)
  /-- R123 -/
  | encMode (cmd mode : Byte)
  /-- R124 -/
  | encSpir (cmd : Byte) (offset : Offset) (size : Word)
  /-- R125 -/
  | encSpiw (cmd : Byte) (offset : Offset) (data : List Byte)
  /-- R131 -/
  | rxLoad (bytes : List Byte)
  /-- R133 -/
  | decAck
  /-- R134 -/
  | decMatch (exp : Word)
  /-- R135 -/
  | decInfo
  /-- R138 -/
  | decSpir (offset : Offset) (len : Word)
  /-- R152 -/
  | triPack (a b : Word)
  /-- R153 -/
  | triUnpk (t0 t1 t2 : Byte)
  /-- R155 -/
  | smpUnpk
  /-- R161 -/
  | norm (rawX rawY xmin xc xmax ymin yc ymax : Word)
  /-- The frame `F49-N` (R60, R122) reaching the device (log 6). -/
  | frameInfo (cmd : Byte) (timer : BitVec 4)
  /-- The frame `F49-M` (R60, R123) reaching the device (log 6). -/
  | frameMode (cmd : Byte) (timer : BitVec 4) (mode : Byte)
  /-- The frame `F49-S` (R60, R124) reaching the device (log 6). -/
  | frameSpir (cmd : Byte) (timer : BitVec 4) (offset : Offset) (size : Word)
  /-- The frame `F49-W` (R60, R125) reaching the device (log 6). -/
  | frameSpiw (cmd : Byte) (timer : BitVec 4) (offset : Offset) (data : List Byte)
  /-- A response whose acknowledgment code is 0x0282 (R70): the 13 bytes before the code and all bytes after it (log 7). -/
  | respInfo (head rest : List Byte)
  /-- A response whose acknowledgment code is 0x1180 (R70; log 7). -/
  | respSpiw (head rest : List Byte)
  /-- A response whose acknowledgment code is 0x1090 (R70; log 7). -/
  | respSerial (head rest : List Byte)
  deriving DecidableEq, Repr

/-- The port an instruction's encoding stands on (R83: formats `CT`, `F49-*`, `RSP-*`). -/
def Instr.port : Instr → Port
  | .crc8Init => .cmd
  | .crc8Upd _ => .cmd
  | .crc8Get => .cmd
  | .crc8Buf _ => .cmd
  | .seqRst => .cmd
  | .encInfo _ => .cmd
  | .encMode _ _ => .cmd
  | .encSpir _ _ _ => .cmd
  | .encSpiw _ _ _ => .cmd
  | .rxLoad _ => .cmd
  | .decAck => .cmd
  | .decMatch _ => .cmd
  | .decInfo => .cmd
  | .decSpir _ _ => .cmd
  | .triPack _ _ => .cmd
  | .triUnpk _ _ _ => .cmd
  | .smpUnpk => .cmd
  | .norm _ _ _ _ _ _ _ _ => .cmd
  | .frameInfo _ _ => .tx
  | .frameMode _ _ _ => .tx
  | .frameSpir _ _ _ _ => .tx
  | .frameSpiw _ _ _ _ => .tx
  | .respInfo _ _ => .rx
  | .respSpiw _ _ => .rx
  | .respSerial _ _ => .rx

/-- The nine pseudo-operations (R82). -/
inductive Pseudo where
  | encModeStd (cmd : Byte)
  | crc8 (bytes : List Byte)
  | expectInfo
  | expectSpiw
  | expectSerial
  | readCalL (cmd : Byte)
  | readCalR (cmd : Byte)
  | readParL (cmd : Byte)
  | readParR (cmd : Byte)
  deriving DecidableEq, Repr

end Sys2Proof
end

