-- ==== Sys2Proof/WellFormed.lean ====
section
/-! DEFINITION. Which instructions have an encoding: the bounds a counted byte string and a response must keep. -/

namespace Sys2Proof

/-- The 16-bit count of R72 can say the length. -/
def countFits (bytes : List Byte) : Bool := bytes.length < 2 ^ 16

/-- R83: 13 bytes before the code, and a response of at most `RESP_MAX` bytes (R61). -/
def respFits (head rest : List Byte) : Bool :=
  head.length == Config.ackPos && Config.ackPos + 2 + rest.length ≤ Config.respMax

/-- The instruction has an encoding. Refused operand values of an operation (R227) are well-formed: the block answers them. -/
def Instr.wf : Instr → Bool
  | .crc8Init => true
  | .crc8Upd _ => true
  | .crc8Get => true
  | .crc8Buf bytes => countFits bytes
  | .seqRst => true
  | .encInfo _ => true
  | .encMode _ _ => true
  | .encSpir _ _ _ => true
  | .encSpiw _ _ data => countFits data
  | .rxLoad bytes => countFits bytes
  | .decAck => true
  | .decMatch _ => true
  | .decInfo => true
  | .decSpir _ _ => true
  | .triPack _ _ => true
  | .triUnpk _ _ _ => true
  | .smpUnpk => true
  | .norm _ _ _ _ _ _ _ _ => true
  | .frameInfo _ _ => true
  | .frameMode _ _ _ => true
  | .frameSpir _ _ _ _ => true
  | .frameSpiw _ _ _ data => data.length ≤ Config.wdataMax
  | .respInfo head rest => respFits head rest
  | .respSpiw head rest => respFits head rest
  | .respSerial head rest => respFits head rest

end Sys2Proof
end

