-- ==== Sys2Proof/Decode.lean ====
section
/-! DEFINITION. The decoder of the three ports, total on any bytes, and the encoder, both written from the tables of
30_encoding.md; with the byte-order helpers they use and the words of the opcode table as the host asks for them. -/

namespace Sys2Proof

/-- `LE(B, 0, n)` of R9: the unsigned integer a byte string spells, first byte lowest. -/
def leNat : List Byte → Nat
  | [] => 0
  | b :: bs => b.toNat + 256 * leNat bs

/-- The `n` bytes of `v`, least significant first (R9, R44). -/
def leBytes : Nat → Nat → List Byte
  | 0, _ => []
  | n + 1, v => BitVec.ofNat 8 v :: leBytes n (v / 256)

/-- A `u16` field (R44). -/
def le16 (bs : List Byte) : Word := BitVec.ofNat 16 (leNat bs)

/-- A `u32` field (R44). -/
def le32 (bs : List Byte) : Offset := BitVec.ofNat 32 (leNat bs)

/-- `bs` and then zeros, up to `n` bytes (R60, "zero-padded"). -/
def padTo (n : Nat) (bs : List Byte) : List Byte := bs ++ List.replicate (n - bs.length) 0

/-- Are these bytes all zero (the bytes R60 calls zero)? -/
def allZero (bs : List Byte) : Bool := bs.all (· == 0)

/-- The 49 bytes of a command frame (R60, R121): `command_id`, the timer nibble with zero high bits (R64), the subcommand, the
argument bytes from byte 3 on, zeros to the end. -/
def frame (cmd : Byte) (timer : BitVec 4) (sub : Byte) (args : List Byte) : List Byte :=
  padTo Config.frameLen ([cmd, timer.setWidth 8, sub] ++ args)

/-- Bytes 3 to 8 of an SPI frame (R65): offset, then size. -/
def spiArgs (offset : Offset) (size : Nat) : List Byte := leBytes 4 offset.toNat ++ leBytes 2 size

/-- Bytes 3 and up of an SPI-write frame (R60, R125): offset, length of the data, seven zeros, the data from byte 16 on. -/
def spiwArgs (offset : Offset) (data : List Byte) : List Byte :=
  spiArgs offset data.length ++ List.replicate 7 0 ++ data

/-- A command transaction (R72, R73); a select byte or a length the tables do not give is rejected (R75). -/
def decodeCmd : List Byte → Option Instr
  | [] => none
  | op :: xs =>
    match op.toNat with
    | 0x10 => match xs with
      | [] => some .crc8Init
      | _ => none
    | 0x11 => match xs with
      | [b] => some (.crc8Upd b)
      | _ => none
    | 0x12 => match xs with
      | [] => some .crc8Get
      | _ => none
    | 0x13 => match xs with
      | n0 :: n1 :: bytes => if bytes.length = leNat [n0, n1] then some (.crc8Buf bytes) else none
      | _ => none
    | 0x20 => match xs with
      | [] => some .seqRst
      | _ => none
    | 0x30 => match xs with
      | [cmd] => some (.encInfo cmd)
      | _ => none
    | 0x31 => match xs with
      | [cmd, mode] => some (.encMode cmd mode)
      | _ => none
    | 0x32 => match xs with
      | [cmd, o0, o1, o2, o3, s0, s1] => some (.encSpir cmd (le32 [o0, o1, o2, o3]) (le16 [s0, s1]))
      | _ => none
    | 0x33 => match xs with
      | cmd :: o0 :: o1 :: o2 :: o3 :: n0 :: n1 :: data =>
        if data.length = leNat [n0, n1] then some (.encSpiw cmd (le32 [o0, o1, o2, o3]) data) else none
      | _ => none
    | 0x40 => match xs with
      | n0 :: n1 :: bytes => if bytes.length = leNat [n0, n1] then some (.rxLoad bytes) else none
      | _ => none
    | 0x41 => match xs with
      | [] => some .decAck
      | _ => none
    | 0x42 => match xs with
      | [e0, e1] => some (.decMatch (le16 [e0, e1]))
      | _ => none
    | 0x43 => match xs with
      | [] => some .decInfo
      | _ => none
    | 0x44 => match xs with
      | [o0, o1, o2, o3, l0, l1] => some (.decSpir (le32 [o0, o1, o2, o3]) (le16 [l0, l1]))
      | _ => none
    | 0x50 => match xs with
      | [a0, a1, b0, b1] => some (.triPack (le16 [a0, a1]) (le16 [b0, b1]))
      | _ => none
    | 0x51 => match xs with
      | [t0, t1, t2] => some (.triUnpk t0 t1 t2)
      | _ => none
    | 0x52 => match xs with
      | [] => some .smpUnpk
      | _ => none
    | 0x60 => match xs with
      | [a0, a1, b0, b1, c0, c1, d0, d1, e0, e1, f0, f1, g0, g1, h0, h1] =>
        some (.norm (le16 [a0, a1]) (le16 [b0, b1]) (le16 [c0, c1]) (le16 [d0, d1])
          (le16 [e0, e1]) (le16 [f0, f1]) (le16 [g0, g1]) (le16 [h0, h1]))
      | _ => none
    | _ => none

/-- A command frame (R60, R83): 49 bytes, zero high nibble in byte 1, one of four subcommands, and zeros where R60 says zero. -/
def decodeTx : List Byte → Option Instr
  | cmd :: t :: sub :: args =>
    if args.length = 46 ∧ t.toNat < 16 then
      let timer := t.setWidth 4
      if sub = Config.subInfo then
        if allZero args then some (.frameInfo cmd timer) else none
      else if sub = Config.subMode then
        match args with
        | mode :: pad => if allZero pad then some (.frameMode cmd timer mode) else none
        | _ => none
      else if sub = Config.subSpir then
        match args with
        | o0 :: o1 :: o2 :: o3 :: s0 :: s1 :: pad =>
          if allZero pad then some (.frameSpir cmd timer (le32 [o0, o1, o2, o3]) (le16 [s0, s1])) else none
        | _ => none
      else if sub = Config.subSpiw then
        match args with
        | o0 :: o1 :: o2 :: o3 :: n0 :: n1 :: z0 :: z1 :: z2 :: z3 :: z4 :: z5 :: z6 :: rest =>
          let n := leNat [n0, n1]
          if n ≤ Config.wdataMax ∧ allZero [z0, z1, z2, z3, z4, z5, z6] ∧ allZero (rest.drop n) then
            some (.frameSpiw cmd timer (le32 [o0, o1, o2, o3]) (rest.take n))
          else none
        | _ => none
      else none
    else none
  | _ => none

/-- A response recognised by its acknowledgment code (R70, R83), at most `RESP_MAX` bytes (R61); a shorter or other response
belongs to no row. -/
def decodeRx (bytes : List Byte) : Option Instr :=
  let head := bytes.take 13
  let rest := bytes.drop 15
  if 15 ≤ bytes.length ∧ bytes.length ≤ Config.respMax then
    let ack := le16 ((bytes.drop 13).take 2)
    if ack = Config.ackInfo then some (.respInfo head rest)
    else if ack = Config.ackSpiw then some (.respSpiw head rest)
    else if ack = Config.ackSerial then some (.respSerial head rest)
    else none
  else none

/-- The decoder: what the bytes on a port stand for. -/
def decode : Port → List Byte → Option Instr
  | .cmd, bytes => decodeCmd bytes
  | .tx, bytes => decodeTx bytes
  | .rx, bytes => decodeRx bytes

/-- A counted byte string: its length as `n` (2, LE), then the bytes (R72). -/
def counted (bytes : List Byte) : List Byte := leBytes 2 bytes.length ++ bytes

/-- The encoder (R60, R61, R72). -/
def encode : Instr → List Byte
  | .crc8Init => [0x10]
  | .crc8Upd b => [0x11, b]
  | .crc8Get => [0x12]
  | .crc8Buf bytes => 0x13 :: counted bytes
  | .seqRst => [0x20]
  | .encInfo cmd => [0x30, cmd]
  | .encMode cmd mode => [0x31, cmd, mode]
  | .encSpir cmd offset size => 0x32 :: cmd :: (leBytes 4 offset.toNat ++ leBytes 2 size.toNat)
  | .encSpiw cmd offset data => 0x33 :: cmd :: (leBytes 4 offset.toNat ++ counted data)
  | .rxLoad bytes => 0x40 :: counted bytes
  | .decAck => [0x41]
  | .decMatch exp => 0x42 :: leBytes 2 exp.toNat
  | .decInfo => [0x43]
  | .decSpir offset len => 0x44 :: (leBytes 4 offset.toNat ++ leBytes 2 len.toNat)
  | .triPack a b => 0x50 :: (leBytes 2 a.toNat ++ leBytes 2 b.toNat)
  | .triUnpk t0 t1 t2 => [0x51, t0, t1, t2]
  | .smpUnpk => [0x52]
  | .norm rawX rawY xmin xc xmax ymin yc ymax =>
    0x60 :: (leBytes 2 rawX.toNat ++ leBytes 2 rawY.toNat ++ leBytes 2 xmin.toNat ++ leBytes 2 xc.toNat ++
      leBytes 2 xmax.toNat ++ leBytes 2 ymin.toNat ++ leBytes 2 yc.toNat ++ leBytes 2 ymax.toNat)
  | .frameInfo cmd timer => frame cmd timer Config.subInfo []
  | .frameMode cmd timer mode => frame cmd timer Config.subMode [mode]
  | .frameSpir cmd timer offset size => frame cmd timer Config.subSpir (spiArgs offset size.toNat)
  | .frameSpiw cmd timer offset data => frame cmd timer Config.subSpiw (spiwArgs offset data)
  | .respInfo head rest => head ++ leBytes 2 Config.ackInfo.toNat ++ rest
  | .respSpiw head rest => head ++ leBytes 2 Config.ackSpiw.toNat ++ rest
  | .respSerial head rest => head ++ leBytes 2 Config.ackSerial.toNat ++ rest

/-- R73: the total length of a transaction with this select byte, `n` being the count of its byte string where it has one. -/
def cmdLength (opsel : Byte) (n : Nat) : Option Nat :=
  match opsel.toNat with
  | 0x10 => some 1
  | 0x12 => some 1
  | 0x20 => some 1
  | 0x41 => some 1
  | 0x43 => some 1
  | 0x52 => some 1
  | 0x11 => some 2
  | 0x30 => some 2
  | 0x31 => some 3
  | 0x42 => some 3
  | 0x13 => some (3 + n)
  | 0x40 => some (3 + n)
  | 0x51 => some 4
  | 0x50 => some 5
  | 0x44 => some 7
  | 0x32 => some 8
  | 0x33 => some (8 + n)
  | 0x60 => some 17
  | _ => none

/-- What each pseudo-operation expands to (R82). -/
def Pseudo.expand : Pseudo → Instr
  | .encModeStd cmd => .encMode cmd Config.modeStd
  | .crc8 bytes => .crc8Buf bytes
  | .expectInfo => .decMatch Config.ackInfo
  | .expectSpiw => .decMatch Config.ackSpiw
  | .expectSerial => .decMatch Config.ackSerial
  | .readCalL cmd => .encSpir cmd Config.addrCalL 9
  | .readCalR cmd => .encSpir cmd Config.addrCalR 9
  | .readParL cmd => .encSpir cmd Config.addrParL 3
  | .readParR cmd => .encSpir cmd Config.addrParR 3

/-- The count field of a transaction's first bytes (R72): bytes 1 and 2, for `ENC.SPIW` bytes 6 and 7. -/
def countField (bytes : List Byte) : Nat :=
  let z := padTo 8 bytes
  if z.head? = some 0x33 then leNat ((z.drop 6).take 2) else leNat ((z.drop 1).take 2)

/-- A transaction's first bytes, with operand bytes of zeros up to the length of R73. -/
def padCmd (bytes : List Byte) : List Byte :=
  match bytes with
  | [] => []
  | op :: _ => padTo ((cmdLength op (countField bytes)).getD 0) bytes

/-- The byte string, and its port, of a word of the opcode table. Rows of 8 bits (and all widths not named below) are command
transactions; rows of 49 bytes are frames; rows of 15 bytes are responses. The table numbers the bits of a response row from
its LAST byte (its `fixed` 15..0 is bytes 0xD and 0xE), so a response or a frame is tried with the first byte lowest and, where
that is no row, with the last byte lowest; 16 bits stand for a response row whose upper bytes are zero (log 20). -/
def tableBytes (nbits w : Nat) : Port × List Byte :=
  if nbits = 392 then
    let low := leBytes 49 w
    (.tx, if (decodeTx low).isSome then low else low.reverse)
  else if nbits = 120 ∨ nbits = 16 then
    let low := leBytes 15 w
    (.rx, if (decodeRx low).isSome then low else low.reverse)
  else (.cmd, padCmd (leBytes (nbits / 8) w))

/-- The instruction the decoder reads from a word of the opcode table. -/
def decodeTableWord (nbits w : Nat) : Option Instr :=
  decode (tableBytes nbits w).1 (tableBytes nbits w).2

end Sys2Proof
end

