-- ==== Sys2Proof/Machine/State.lean ====
section
/-! DEFINITION. The state as plain data: the block (R36), the host that drives it (R32, R33, files 46 and 47), the transport's
answers still to come (R180), and the device as far as the spec gives it (R34, R51, R69). -/

namespace Sys2Proof.Machine

/-- One address space, as the bytes that differ from what an unlisted address reads as, addresses rising (`Memory.wf`). In `TXBUF`
and `RXBUF` an unlisted address reads 0x00 (R36); in `FLASH` it has no known value (R47, log 8). -/
abbrev Memory := List Host.Cell

/-- The statuses (R221). -/
inductive Status where
  | ok
  | timeout
  | ackMismatch
  | shortRead
  | retryBudgetExhausted
  | illegalOp
  | operandRange
  | calibRange
  deriving DecidableEq, Repr

/-- The controller kinds of R194, told by the connection-kind flag (R33). -/
inductive Kind where
  | both
  | leftOnly
  | rightOnly
  deriving DecidableEq, Repr

/-- A choice the spec leaves to the host (R127, R186, N9; logs 12, 31). -/
inductive Choice where
  | carryOn
  | resend
  | giveUp
  deriving DecidableEq, Repr

/-- What a call of the transport's `write` comes to (R180, R127). `taken`: the device acts on the frame (R185: a frame may reach
the device or not; log 11). -/
inductive WriteEvent where
  /-- all 49 bytes written -/
  | done (taken : Bool)
  /-- fewer than 49 bytes, or an error -/
  | failed (taken : Bool)
  deriving DecidableEq, Repr

/-- What a call of the transport's `read_timeout` comes to (R180; log 11). -/
inductive ReadEvent where
  /-- it returned 0 -/
  | timeout
  /-- it delivered these bytes -/
  | deliver (bytes : List Byte)
  /-- the device answers its latest request: these bytes, with the fields of R61 filled in (log 24) -/
  | answer (noise : List Byte)
  /-- it returned an error; the block cannot be told of it (R131) -/
  | error
  deriving DecidableEq, Repr

/-- Where a host procedure stands inside one exchange (R184 to R186). -/
inductive Point where
  /-- a fresh encode operation (R113) -/
  | send
  /-- hand the frame to the transport -/
  | write
  /-- a read attempt (R183) -/
  | read
  /-- the decode operation of the policy (R182) -/
  | judge
  deriving DecidableEq, Repr

/-- Where the capture stands (R190, R200, R201). -/
inductive CapturePoint where
  /-- where it begins: a fresh `ENC.MODE cmd, 0x30` -/
  | mode
  /-- hand the set-mode frame to the transport -/
  | write
  /-- a read that waits for the answer to it -/
  | answer
  /-- `DEC.ACK`, and whether its code is that answer -/
  | accept
  /-- a read of a report -/
  | read
  /-- `SMP.UNPK`, and what follows from it -/
  | judge
  deriving DecidableEq, Repr

/-- The retry counters of a procedure (R33, R184 to R186): exchanges that have failed, read attempts that have failed in this
exchange, and the next move. -/
structure Progress where
  sends : Nat
  reads : Nat
  point : Point
  deriving DecidableEq, Repr

/-- What policy 2 asks for (R184, R189). -/
inductive Query where
  | info
  | serial (offset : Offset) (size : Word)
  deriving DecidableEq, Repr

/-- What a frame asks of the device (R51, R69). -/
inductive Request where
  | info
  | mode (m : Byte)
  | spiRead (offset : Offset) (size : Word)
  | spiWrite (offset : Offset) (data : List Byte)
  deriving DecidableEq, Repr

/-- An exchange that is not resolved (R12, R249), with what the retry policies count of it (R184, R185; log 34). -/
structure Exchange where
  /-- what its frame asked for -/
  request : Request
  /-- its sends that have failed in full, before the latest -/
  failedSends : Nat
  /-- the reads since the latest send -/
  reads : Nat
  /-- the latest call of the transport has failed -/
  failed : Bool
  deriving DecidableEq, Repr

/-- A stick triplet (R150). -/
structure Triplet where
  t0 : Byte
  t1 : Byte
  t2 : Byte
  deriving DecidableEq, Repr

/-- A calibration block: 9 bytes, three triplets (R156). Which value stands in which half of which triplet is the open `CAL_LAYOUT`
(D29; log 32). -/
structure CalBlock where
  first : Triplet
  second : Triplet
  third : Triplet
  deriving DecidableEq, Repr

/-- `StickParams` (R156), which `TRI.PACK` packs into the 3 bytes of a parameter block. -/
structure StickParams where
  deadzone : Word
  rangeRatio : Word
  deriving DecidableEq, Repr

/-- One flash write of a plan (R193, R195): 9 bytes of calibration, or the parameters that pack into 3 bytes. -/
inductive FlashWrite where
  | calibration (offset : Offset) (block : CalBlock)
  | parameters (offset : Offset) (params : StickParams)
  deriving DecidableEq, Repr

/-- The parameters of the capture (R7): the paddings, and the fixed range-ratio constant with the device kinds it applies to, which are
unused by default (R206, R208, R210; log 33). -/
structure CaptureParams where
  /-- `PAD_INNER` -/
  padInner : Nat := 0
  /-- `PAD_OUTER` -/
  padOuter : Nat := 0
  /-- `RR_CONST` -/
  rrConst : BitVec 12 := 0
  /-- `RR_KINDS` -/
  rrKinds : List Kind := []
  deriving DecidableEq, Repr

/-- A task of the host (R181). The first six are single moves; the others are procedures, which stay at the head of the agenda
until they end. -/
inductive Task where
  /-- present a command transaction on the CMD port (R71) -/
  | issue (ct : List Byte)
  /-- hand `TXBUF` to the transport's `write` (R127) -/
  | write
  /-- `attempt(t_ms)`: `read_timeout`, then `RX.LOAD` of what came (R183) -/
  | read (ms : Nat)
  /-- let the settle delay pass (R196) -/
  | wait
  /-- the reset event (R240) -/
  | reset
  /-- `open` returned null (`none`) or a handle to a controller of this kind (R243) -/
  | openSession (handle : Option Kind)
  /-- policy 2 (R184, R189) -/
  | query (q : Query) (cmd : Byte) (p : Progress)
  /-- policy 3 (R185), and the writes of its plan that follow it (R195) -/
  | writeSpi (cmd : Byte) (offset : Offset) (data : List Byte) (rest : List FlashWrite) (p : Progress)
  /-- an SPI write has been acknowledged: let the settle delay pass, then go on with the writes that follow (R195, R196) -/
  | settle (cmd : Byte) (rest : List FlashWrite)
  /-- pack the parameters of a plan with `TRI.PACK`, then write them (R156, R195) -/
  | packParams (cmd : Byte) (offset : Offset) (params : StickParams) (rest : List FlashWrite)
  /-- policy 1 (R186); `bound` is `SPIR_MAX_READS`, `none` for unbounded -/
  | readSpi (cmd : Byte) (offset : Offset) (len : Word) (bound : Option Nat) (p : Progress)
  /-- the calibration writes of R194 and R195: calibration and parameters of the right and of the left stick -/
  | calibrate (cmd : Byte) (rightCal : CalBlock) (rightPar : StickParams) (leftCal : CalBlock) (leftPar : StickParams)
  /-- the capture algorithm (R200), planned at its point `mode`: the set-mode exchange comes first (R190, R245) -/
  | capture (cmd : Byte) (params : CaptureParams) (point : CapturePoint)
  deriving DecidableEq, Repr

/-- How the latest procedure ended (R184 to R186, R191). -/
inductive HostResult where
  /-- no procedure has ended yet -/
  | none
  /-- with this status and these bytes -/
  | done (st : Status) (bytes : List Byte)
  /-- the host gave up, after a transport failure (R127; logs 12, 18) or without an answer to the set-mode frame (log 31) -/
  | gaveUp
  deriving DecidableEq, Repr

/-- The phases of the capture (R211). -/
inductive Phase where
  | awaitingCenterSample
  | awaitingRangeSample
  | done
  deriving DecidableEq, Repr

/-- A running minimum and maximum (R32, R202). -/
structure Track where
  lo : Word
  hi : Word
  deriving DecidableEq, Repr

/-- What the capture finds for one stick (R205, R206, R208, R210). -/
structure StickResult where
  xcenter : Word
  ycenter : Word
  deadzone : Word
  xmin : Word
  xmax : Word
  ymin : Word
  ymax : Word
  rangeRatio : Word
  deriving DecidableEq, Repr

/-- The capture's phase, accumulators (R32) and results. -/
structure Capture where
  phase : Phase
  lx : Track
  ly : Track
  rx : Track
  ry : Track
  left : StickResult
  right : StickResult
  deriving DecidableEq, Repr

/-- The host (R181, R32, R33). -/
structure HostState where
  /-- what it will do, in order (R259) -/
  agenda : List Task
  /-- it holds a transport handle (R243) -/
  session : Bool
  /-- the connection-kind flag (R33) -/
  kind : Kind
  /-- an SPI-write acknowledgment has arrived, or has been found by `DEC.MATCH`, and the settle delay has not passed since (R196, R251;
  log 7) -/
  settleOwed : Bool
  /-- its exchange that is not resolved, if there is one (R51, R249; log 34) -/
  exchange : Option Exchange
  /-- the frame in `TXBUF` has been handed to the transport: the next send needs a fresh one (R113; log 36) -/
  sent : Bool
  /-- what its latest frame asked for, which chooses the view of a response (R61; log 35) -/
  asked : Option Request
  /-- the time argument of its latest timed move, in ms (R180, R196) -/
  ms : Nat
  /-- how its latest procedure ended -/
  result : HostResult
  /-- its choices still to come (log 12) -/
  choices : List Choice
  /-- the calibration capture -/
  capture : Capture
  /-- the model's own counter of free values used (log 29) -/
  free : Nat
  deriving DecidableEq, Repr

/-- The transport's answers still to come (log 11). -/
structure Transport where
  writes : List WriteEvent
  reads : List ReadEvent
  deriving DecidableEq, Repr

/-- The device, as far as the spec gives it. -/
structure Device where
  /-- `FLASH` (R34, R40): the bytes written in this epoch -/
  flash : Memory
  /-- the model's own counter of epochs, one for each time the contents become unknown (logs 8, 9) -/
  epoch : Nat
  /-- the mode argument of the latest set-mode frame (R69, R77) -/
  reportMode : Option Byte
  /-- the latest request (R51) -/
  request : Option Request
  deriving DecidableEq, Repr

end Sys2Proof.Machine

namespace Sys2Proof.Machine

/-- The machine. The first five fields are the block's state (R36); `CRCROM` is wired (R28) and stands in Machine/Crc.lean. -/
structure State where
  /-- the sequence counter (R22) -/
  seq : BitVec 4
  /-- the running CRC (R23) -/
  crc : Byte
  /-- the number of valid bytes in `RXBUF` (R24) -/
  rxLen : Nat
  /-- `TXBUF` (R26) -/
  txbuf : Memory
  /-- `RXBUF` (R27) -/
  rxbuf : Memory
  /-- the last response on the RES port (R71; log 2) -/
  res : List Byte
  host : HostState
  transport : Transport
  device : Device
  deriving DecidableEq, Repr

/-- Why the machine stops. -/
inductive Fault where
  /-- Raised by a host move that uses the transport while the host holds no handle: "no operation that uses the transport may
  follow" a `null` handle (R243). Safe: the run stops. -/
  | noSession
  deriving DecidableEq, Repr

/-- Why a step has no meaning. -/
inductive Refusal where
  /-- Raised by an arm of `exec` for an instruction that has no meaning yet (none has this arm). Safe: the run stops. -/
  | notModelled (mnemonic : String)
  /-- Raised when the device takes a `TXBUF` that is no command frame: no operation builds one, and what the device does with it is
  unknown (R76, R244). Safe: the run stops. -/
  | unknownFrame
  /-- Raised when the host would write a frame while the one before is unresolved: "The host never writes a second frame while the first
  is unresolved" (R249), and a model "has no two frames outstanding" (R51). Safe: the run stops. -/
  | frameOutstanding
  /-- Raised when the host would hand the same frame to the transport again: "The host must not write the same `TXBUF` contents to the
  transport twice" (R113). Safe: the run stops. -/
  | frameSent
  deriving DecidableEq, Repr

/-- What a step, a meaning or a host move answers. -/
abbrev Result := Host.Outcome State Fault Refusal

/-- An accumulator at the start of a phase (R203). -/
def Track.init : Track := ⟨0xFFF, 0⟩

/-- No results: what the fields hold before they are found, and throughout for a stick that the controller lacks (log 28). -/
def StickResult.blank : StickResult := ⟨0, 0, 0, 0, 0, 0, 0, 0⟩

/-- The capture as it starts: accumulators as R203 starts a phase, no results of an earlier run (R33; log 28). -/
def Capture.blank : Capture :=
  ⟨.awaitingCenterSample, Track.init, Track.init, Track.init, Track.init, StickResult.blank, StickResult.blank⟩

/-- Right after reset (R36, R240, R241): the block's state as R36 gives it; a session just opened, nothing planned, nothing known of
the device (logs 1, 2, 11, 13, 18, 19, 27, 28, 29, 34, 35, 36). -/
def State.reset : State where
  seq := 0
  crc := 0x00
  rxLen := 0
  txbuf := []
  rxbuf := []
  res := []
  host :=
    { agenda := [], session := true, kind := .both, settleOwed := false, exchange := none, sent := false, asked := none, ms := 0,
      result := .none, choices := [], capture := Capture.blank, free := 0 }
  transport := { writes := [], reads := [] }
  device := { flash := [], epoch := 0, reportMode := none, request := none }

end Sys2Proof.Machine
end

