-- ==== Sys2Proof/Machine/Flags.lean ====
section
/-! DEFINITION. The block has no flags (R30); the outcome of an operation is its status. Its codes, and the range tests behind
`OperandRange` and `CalibRange`. -/

namespace Sys2Proof.Machine

/-- The code of a status (R221). -/
def Status.code : Status → Byte
  | .ok => 0x00
  | .timeout => 0x01
  | .ackMismatch => 0x02
  | .shortRead => 0x03
  | .retryBudgetExhausted => 0x04
  | .illegalOp => 0x10
  | .operandRange => 0x11
  | .calibRange => 0x12

/-- The 12-bit invariant `v <= 0xFFF` (R152, R214). -/
def isU12 (v : Word) : Bool := v.toNat ≤ 0xFFF

/-- The calibration invariant of one axis (R162). -/
def calibOk (min c max : Word) : Bool :=
  min.toNat ≤ c.toNat && c.toNat ≤ max.toNat && isU12 max

end Sys2Proof.Machine
end

