-- ==== Sys2Proof/Machine/Ops.lean ====
section
/-! DEFINITION. The shared operations: reading and writing the address spaces, answering on the RES port (with a status other
than OK this is the block's "exception", R220, R231), loading a response, building a frame, and the reset event. -/

namespace Sys2Proof.Machine

/-- The listed byte at an address, if there is one. -/
def Memory.find : Memory → Nat → Option Byte
  | [], _ => none
  | (k, b) :: m, a => if k = a then some b else Memory.find m a

/-- List this byte at this address, keeping the addresses rising and each listed once. -/
def Memory.insert : Memory → Nat → Byte → Memory
  | [], a, b => [(a, b)]
  | (k, c) :: m, a, b =>
    if a < k then (a, b) :: (k, c) :: m
    else if a = k then (a, b) :: m
    else (k, c) :: Memory.insert m a b

/-- A buffer that holds these bytes from this address on, and 0x00 everywhere else: only bytes other than 0x00 are listed. -/
def Memory.ofBytesAt (a : Nat) : List Byte → Memory
  | [] => []
  | b :: bs => if b = 0 then Memory.ofBytesAt (a + 1) bs else (a, b) :: Memory.ofBytesAt (a + 1) bs

/-- A buffer written whole (R57, R131). -/
def Memory.ofBytes (bs : List Byte) : Memory := Memory.ofBytesAt 0 bs

/-- One byte of a buffer; an unlisted address reads 0x00 (R36). -/
def Memory.byte (m : Memory) (a : Nat) : Byte := (Memory.find m a).getD 0

/-- The `n` bytes of a buffer from address `a` on. -/
def Memory.bytes (m : Memory) (a : Nat) : Nat → List Byte
  | 0 => []
  | n + 1 => Memory.byte m a :: Memory.bytes m (a + 1) n

/-- `MemRead(S, a, n)` (R9, R56). -/
def Memory.read (m : Memory) (a n : Nat) : Nat := leNat (Memory.bytes m a n)

/-- Write bytes one after the other from address `a` on (the device's `FLASH`, R34). -/
def Memory.writeBytes (m : Memory) (a : Nat) : List Byte → Memory
  | [] => m
  | b :: bs => Memory.writeBytes (Memory.insert m a b) (a + 1) bs

/-- Are the addresses strictly rising, the first one at least `lo`? -/
def Memory.rising (lo : Nat) : Memory → Bool
  | [] => true
  | (k, _) :: m => lo ≤ k && Memory.rising (k + 1) m

/-- The canonical form of a space of `size` bytes in which an unlisted address reads as `blank` (`none`: no known value). -/
def Memory.wf (blank : Option Byte) (size : Nat) (m : Memory) : Bool :=
  Memory.rising 0 m && m.all (fun c => c.1 < size && some c.2 != blank)

/-- The 49 bytes the TX port presents (R127). -/
def State.txBytes (s : State) : List Byte := Memory.bytes s.txbuf 0 Config.frameLen

/-- The bytes received: `RXBUF[0 .. rx_len-1]` (R24). -/
def State.rxBytes (s : State) : List Byte := Memory.bytes s.rxbuf 0 s.rxLen

/-- Put a response on the RES port (R71, R74). -/
def State.setRes (s : State) (bytes : List Byte) : State := { s with res := bytes }

/-- Write `crc` (R23). -/
def State.setCrc (s : State) (c : Byte) : State := { s with crc := c }

/-- Write `seq` (R22). -/
def State.setSeq (s : State) (n : BitVec 4) : State := { s with seq := n }

/-- Write `TXBUF` whole (R26). -/
def State.setTx (s : State) (bytes : List Byte) : State := { s with txbuf := Memory.ofBytes bytes }

/-- Write `RXBUF` whole, zeros after the bytes, and `rx_len` (R131). -/
def State.setRx (s : State) (bytes : List Byte) : State :=
  { s with rxbuf := Memory.ofBytes bytes, rxLen := bytes.length }

/-- Write the host's part. -/
def State.setHost (s : State) (h : HostState) : State := { s with host := h }

/-- Write the exchange that is not resolved (R249). -/
def State.setExchange (s : State) (x : Option Exchange) : State := s.setHost { s.host with exchange := x }

/-- Note whether the frame in `TXBUF` has been handed to the transport (R113). -/
def State.setSent (s : State) (b : Bool) : State := s.setHost { s.host with sent := b }

/-- From now on the settle delay is owed (R196, R251; log 7). -/
def State.oweSettle (s : State) : State := s.setHost { s.host with settleOwed := true }

/-- Write the transport's part. -/
def State.setTransport (s : State) (t : Transport) : State := { s with transport := t }

/-- Write the device's part. -/
def State.setDevice (s : State) (d : Device) : State := { s with device := d }

/-- Answer with a status and result bytes; nothing else changes (R74, R220). -/
def respond (st : Status) (result : List Byte) (s : State) : Result :=
  .next (s.setRes (st.code :: result))

/-- `raise <Status>` (R9, R231): the status alone, and no other effect. -/
def raise (st : Status) (s : State) : Result := respond st [] s

/-- Answer what a pure operation computed: its result bytes with `OK`, or the status it raises. -/
def answer (r : Except Status (List Byte)) (s : State) : Result :=
  match r with
  | .ok bytes => respond .ok bytes s
  | .error st => raise st s

/-- Go on from a next state; a fault or a refusal stays. -/
def andThen (r : Result) (f : State → Result) : Result :=
  match r with
  | .next s => f s
  | .fault e => .fault e
  | .refused e => .refused e

/-- An encode operation that raises nothing (R112, R120): the frame carries `seq` as it was, then `seq` advances modulo 16; the
49 bytes are the result. -/
def sendFrame (cmd sub : Byte) (args : List Byte) (s : State) : Result :=
  let f := frame cmd s.seq sub args
  respond .ok f ((s.setTx f).setSeq (s.seq + 1))

/-- `RX.LOAD` (R131). -/
def loadResponse (bytes : List Byte) (s : State) : Result :=
  if bytes.length > Config.respMax then raise .operandRange s
  else respond .ok [] (s.setRx bytes)

/-- The status on the RES port. -/
def State.status (s : State) : Byte := s.res.headD 0x00

/-- The reset event between two operations (R240, R241, R242): the block's state and its RES port are as after reset; the host's,
the transport's and the device's are not touched (log 26). -/
def State.resetBlock (s : State) : State :=
  { State.reset with host := s.host, transport := s.transport, device := s.device }

end Sys2Proof.Machine
end

