-- ==== Sys2Proof/Machine/Operands.lean ====
section
/-! DEFINITION. Operand forms: multi-byte results on the RES port, 12-bit values in triplets, the clamp. -/

namespace Sys2Proof.Machine

/-- A `u16` result, low byte first (R44, R74). -/
def word16 (v : Word) : List Byte := leBytes 2 v.toNat

/-- An `f32` result: its bit pattern, low byte first (R44). -/
def word32 (v : F32) : List Byte := leBytes 4 v.toNat

/-- `a` of a triplet (R67): `t0 | ((t1 & 0xF) << 8)`. -/
def tripletA (t0 t1 : Byte) : Word := t0.setWidth 16 ||| ((t1 &&& 0xF).setWidth 16 <<< 8)

/-- `b` of a triplet (R67): `(t1 >> 4) | (t2 << 4)`. -/
def tripletB (t1 t2 : Byte) : Word := (t1 >>> 4).setWidth 16 ||| (t2.setWidth 16 <<< 4)

/-- The three bytes of a triplet (R151, R152). -/
def tripletBytes (a b : Word) : List Byte :=
  [(a &&& 0xFF).setWidth 8,
   (((b &&& 0xF) <<< 4) ||| ((a >>> 8) &&& 0xF)).setWidth 8,
   ((b >>> 4) &&& 0xFF).setWidth 8]

/-- `clamp(r, min, max)` on unsigned integers (R163). -/
def clamp (r min max : Word) : Word :=
  if r.toNat < min.toNat then min else if max.toNat < r.toNat then max else r

end Sys2Proof.Machine
end

