-- ==== Sys2Proof/Machine/Decoder.lean ====
section
/-! DEFINITION. The response-frame decoder (43_frame_decoder.md). Every decode operation is a pure function of `RXBUF`, `rx_len` and
its operands (R130), and reads no byte at or past `rx_len` (R56). -/

namespace Sys2Proof.Machine

/-- The acknowledgment code of the response, or the status R133 raises. -/
def readAck (s : State) : Except Status Word :=
  if s.rxLen = 0 then .error .timeout
  else if s.rxLen < 0xF then .error .ackMismatch
  else .ok (BitVec.ofNat 16 (Memory.read s.rxbuf Config.ackPos 2))

/-- Equality of the acknowledgment code (R134). -/
def matchAck (exp : Word) (s : State) : Except Status Unit :=
  match readAck s with
  | .ok ack => if ack = exp then .ok () else .error .ackMismatch
  | .error st => .error st

/-- The device-info payload (R135). -/
def readInfo (s : State) : Except Status (List Byte) :=
  match matchAck Config.ackInfo s with
  | .ok () =>
    if s.rxLen < 0x19 then .error .shortRead
    else .ok (Memory.bytes s.rxbuf Config.infoPos Config.infoLen)
  | .error st => .error st

/-- How many bytes of a response the echo test needs (R137). -/
def echoNeed (E : Config.EchoLayout) : Nat :=
  max (max (E.offPos + E.offW) (E.sizePos + E.sizeW)) (if E.ack.isSome then 0xF else 0)

/-- The SPI-read match predicate (R137), for any echo layout. -/
def spirMatch (E : Config.EchoLayout) (offset : Offset) (len : Word) (s : State) : Except Status Unit :=
  if s.rxLen = 0 then .error .timeout
  else if s.rxLen < echoNeed E then .error .ackMismatch
  else if E.ack.any (fun a => Memory.read s.rxbuf Config.ackPos 2 != a.toNat) then .error .ackMismatch
  else if Memory.read s.rxbuf E.offPos E.offW ≠ offset.toNat % 2 ^ (8 * E.offW) then .error .ackMismatch
  else if Memory.read s.rxbuf E.sizePos E.sizeW ≠ len.toNat % 2 ^ (8 * E.sizeW) then .error .ackMismatch
  else .ok ()

/-- `DEC.SPIR offset, len` (R138, R139), for any echo layout: the one operation that returns bytes beside a status other than OK. -/
def decSpirWith (E : Config.EchoLayout) (offset : Offset) (len : Word) (s : State) : Result :=
  match spirMatch E offset len s with
  | .ok () =>
    if s.rxLen ≥ Config.rdataPos + len.toNat then
      respond .ok (Memory.bytes s.rxbuf Config.rdataPos len.toNat) s
    else respond .shortRead (List.replicate len.toNat 0) s
  | .error st => raise st s

/-- `RX.LOAD n, bytes` (R131). -/
def execRxLoad (bytes : List Byte) (s : State) : Result := loadResponse bytes s

/-- `DEC.ACK` (R133). -/
def execDecAck (s : State) : Result := answer ((readAck s).map word16) s

/-- `DEC.MATCH exp` (R134). -/
def execDecMatch (exp : Word) (s : State) : Result := answer ((matchAck exp s).map fun _ => []) s

/-- `DEC.INFO` (R135). -/
def execDecInfo (s : State) : Result := answer (readInfo s) s

/-- `DEC.SPIR offset, len` (R138) under the block's echo layout (R136). -/
def execDecSpir (offset : Offset) (len : Word) (s : State) : Result := decSpirWith Config.echo offset len s

end Sys2Proof.Machine
end

