-- ==== Sys2Proof/Machine/Device.lean ====
section
/-! DEFINITION. The device's side: what the spec gives of a command frame that reaches the device (the rows FRAME.*), of a response
that arrives (the rows RESP.*, R183), and of the answer the device makes (R61). The rest of the device is out of scope (R6). -/

namespace Sys2Proof.Machine

/-- The flash map (R47): first byte and length of each range the spec names. -/
def flashMap : List (Nat × Nat) :=
  [(Config.addrCalL.toNat, 9), (Config.addrCalR.toNat, 9), (Config.addrParL.toNat, 3), (Config.addrParR.toNat, 3)]

/-- The address lies in a range of the flash map. -/
def inFlashMap (a : Nat) : Bool := flashMap.any fun r => r.1 ≤ a && a < r.1 + r.2

/-- What a command frame asks for (R69); any other instruction asks nothing of the device. -/
def frameRequest : Instr → Option Request
  | .frameInfo _ _ => some .info
  | .frameMode _ _ mode => some (.mode mode)
  | .frameSpir _ _ offset size => some (.spiRead offset size)
  | .frameSpiw _ _ offset data => some (.spiWrite offset data)
  | .crc8Init | .crc8Upd _ | .crc8Get | .crc8Buf _ | .seqRst => none
  | .encInfo _ | .encMode _ _ | .encSpir _ _ _ | .encSpiw _ _ _ => none
  | .rxLoad _ | .decAck | .decMatch _ | .decInfo | .decSpir _ _ => none
  | .triPack _ _ | .triUnpk _ _ _ | .smpUnpk | .norm _ _ _ _ _ _ _ _ => none
  | .respInfo _ _ | .respSpiw _ _ | .respSerial _ _ => none

/-- The spec gives the outcome of this flash write: it has data (U19), stays inside the flash map (R47), and no settle delay is owed
(R251). -/
def writeKnown (s : State) (offset : Offset) (data : List Byte) : Bool :=
  !s.host.settleOwed && !data.isEmpty && (List.range data.length).all fun i => inFlashMap (offset.toNat + i)

/-- `FLASH` after a write (R34); where the spec gives no outcome its contents become unknown: a new epoch of free values (logs 9, 10). -/
def writeFlash (s : State) (offset : Offset) (data : List Byte) : Device :=
  if writeKnown s offset data then
    { s.device with flash := Memory.writeBytes s.device.flash offset.toNat data }
  else { s.device with flash := [], epoch := s.device.epoch + 1 }

/-- One byte of `FLASH`; a byte no frame has written in this epoch is a free value (log 8). -/
def Device.flashByte (d : Device) (a : Nat) : Byte := (Memory.find d.flash a).getD (Config.flashByte d.epoch a)

/-- The latest request becomes this one (R51). -/
def receive (r : Request) (d : Device) (s : State) : Result := .next (s.setDevice { d with request := some r })

/-- FRAME.INFO: the device is asked for its info (R69, R122). The timer nibble has no meaning to it (U6). -/
def execFrameInfo (_cmd : Byte) (_timer : BitVec 4) (s : State) : Result := receive .info s.device s

/-- FRAME.MODE: the device is asked for an input-report mode (R69, R77, R123). -/
def execFrameMode (_cmd : Byte) (_timer : BitVec 4) (mode : Byte) (s : State) : Result :=
  receive (.mode mode) { s.device with reportMode := some mode } s

/-- FRAME.SPIR: the device is asked for bytes of `FLASH` (R40, R69, R124); reading changes nothing (R46). -/
def execFrameSpir (_cmd : Byte) (_timer : BitVec 4) (offset : Offset) (size : Word) (s : State) : Result :=
  receive (.spiRead offset size) s.device s

/-- FRAME.SPIW: the device writes `FLASH` (R34, R40, R46, R69, R125). -/
def execFrameSpiw (_cmd : Byte) (_timer : BitVec 4) (offset : Offset) (data : List Byte) (s : State) : Result :=
  receive (.spiWrite offset data) (writeFlash s offset data) s

/-- A response with this acknowledgment code arrives and is loaded (R183). -/
def respArrives (ack : Word) (head rest : List Byte) (s : State) : Result :=
  loadResponse (head ++ leBytes 2 ack.toNat ++ rest) s

/-- RESP.INFO (R70, R135, R183). -/
def execRespInfo (head rest : List Byte) (s : State) : Result := respArrives Config.ackInfo head rest s

/-- RESP.SPIW (R70, R134, R183): from this acknowledgment on the settle delay is owed (R196, R251). -/
def execRespSpiw (head rest : List Byte) (s : State) : Result :=
  andThen (respArrives Config.ackSpiw head rest s) fun t => .next t.oweSettle

/-- RESP.SERIAL (R70, R134, R183, R189). -/
def execRespSerial (head rest : List Byte) (s : State) : Result := respArrives Config.ackSerial head rest s

/-- Byte `j` of a value stored little-endian. -/
def byteOf (v j : Nat) : Byte := BitVec.ofNat 8 (v / 256 ^ j)

/-- Byte `i` of an SPI-read answer (R61, R136): code, echo, payload from `FLASH`; `b` where the spec says nothing (R42, U12). -/
def spiReadByte (E : Config.EchoLayout) (d : Device) (offset : Offset) (size : Word) (i : Nat) (b : Byte) : Byte :=
  if E.offPos ≤ i ∧ i < E.offPos + E.offW then byteOf offset.toNat (i - E.offPos)
  else if E.sizePos ≤ i ∧ i < E.sizePos + E.sizeW then byteOf size.toNat (i - E.sizePos)
  else if Config.rdataPos ≤ i ∧ i < Config.rdataPos + size.toNat then d.flashByte (offset.toNat + (i - Config.rdataPos))
  else match E.ack with
    | some a => if Config.ackPos ≤ i ∧ i < Config.ackPos + 2 then byteOf a.toNat (i - Config.ackPos) else b
    | none => b

/-- Byte `i` of a response that carries an acknowledgment code (R61). -/
def ackByte (ack : Word) (i : Nat) (b : Byte) : Byte :=
  if Config.ackPos ≤ i ∧ i < Config.ackPos + 2 then byteOf ack.toNat (i - Config.ackPos) else b

/-- Byte `i` of the device's answer to its latest request (R61, R70): `b` where the spec does not give it: the info payload (U18), the
answer to a set-mode frame (N9), an SPI read of 0 or of more than 0x15C bytes (U19). An SPI read is answered with the echo whatever its
offset: that the device answers the serial-number read, which R189 judges by the code 0x1090, in no other way (N16) is the model's choice
(log 24). -/
def answerByte (d : Device) (i : Nat) (b : Byte) : Byte :=
  match d.request with
  | some .info => ackByte Config.ackInfo i b
  | some (.spiRead offset size) =>
    if size = 0 ∨ Config.respMax < Config.rdataPos + size.toNat then b else spiReadByte Config.echo d offset size i b
  | some (.spiWrite _ _) => ackByte Config.ackSpiw i b
  | some (.mode _) => b
  | none => b

/-- The bytes from number `i` on of the device's answer, over the bytes the spec says nothing of (log 24). -/
def answerFrom (d : Device) : Nat → List Byte → List Byte
  | _, [] => []
  | i, b :: bs => answerByte d i b :: answerFrom d (i + 1) bs

end Sys2Proof.Machine
end

