-- ==== Sys2Proof/Machine/Encoder.lean ====
section
/-! DEFINITION. The command-frame encoder (42_frame_encoder.md). -/

namespace Sys2Proof.Machine

/-- `ENC.INFO cmd` (R122). -/
def execEncInfo (cmd : Byte) (s : State) : Result := sendFrame cmd Config.subInfo [] s

/-- `ENC.MODE cmd, mode` (R123). -/
def execEncMode (cmd mode : Byte) (s : State) : Result := sendFrame cmd Config.subMode [mode] s

/-- `ENC.SPIR cmd, offset, size` (R124). -/
def execEncSpir (cmd : Byte) (offset : Offset) (size : Word) (s : State) : Result :=
  sendFrame cmd Config.subSpir (spiArgs offset size.toNat) s

/-- `ENC.SPIW cmd, offset, n, data` (R125): more than 29 data bytes are refused, nothing built. -/
def execEncSpiw (cmd : Byte) (offset : Offset) (data : List Byte) (s : State) : Result :=
  if data.length > Config.wdataMax then raise .operandRange s
  else sendFrame cmd Config.subSpiw (spiwArgs offset data) s

end Sys2Proof.Machine
end

