-- ==== Sys2Proof/Machine/Binary32.lean ====
section
/-! DEFINITION. The arithmetic `NUM` (R10, R169): IEEE 754 binary32, round to nearest, ties to even, one rounding per operation,
no flush to zero. A finite value is an integer multiple of 2^-149, so every operation is exact integer arithmetic and then one
rounding. What is not defined (a result on an operand that is not finite, on a zero divisor or of the root of a negative number, and
the order of a NaN) is a free value; no `NORM` reaches it (R170; log 5). -/

namespace Sys2Proof.Machine.Binary32

/-- The sign bit. -/
def isNeg (x : F32) : Bool := 2 ^ 31 ≤ x.toNat

/-- The value is finite: its exponent field is not all ones. -/
def isFinite (x : F32) : Bool := x.toNat / 2 ^ 23 % 2 ^ 8 ≠ 255

/-- The pattern is a NaN. -/
def isNaN (x : F32) : Bool := !isFinite x && x.toNat % 2 ^ 23 ≠ 0

/-- The magnitude of a finite value, in units of 2^-149. -/
def units (x : F32) : Nat :=
  let e := x.toNat / 2 ^ 23 % 2 ^ 8
  let f := x.toNat % 2 ^ 23
  if e = 0 then f else (2 ^ 23 + f) * 2 ^ (e - 1)

/-- A finite value, in units of 2^-149. -/
def value (x : F32) : Int := if isNeg x then -(units x : Int) else (units x : Int)

/-- `RN` (R10) of the number `num / den` with a sign: the nearest binary32 value, ties to even. `k` is the exponent of the last place
in units of 2^-149, 0 for a subnormal result; a carry out of the fraction runs into the exponent field, and beyond the largest
finite value stands infinity. -/
def round (neg : Bool) (num den : Nat) : F32 :=
  let sign := if neg then 2 ^ 31 else 0
  if num = 0 then BitVec.ofNat 32 sign
  else
    let a := num.log2
    let b := den.log2
    let k := if num * 2 ^ b < den * 2 ^ a then a + 125 - b else a + 126 - b
    let n := num * 2 ^ 149
    let d := den * 2 ^ k
    let q := n / d
    let r := n % d
    let m := if d < 2 * r ∨ (2 * r = d ∧ q % 2 = 1) then q + 1 else q
    BitVec.ofNat 32 (sign + min (k * 2 ^ 23 + m) 0x7F800000)

/-- `i2f(n)` (R10). -/
def i2f (n : Int) : F32 := round (n < 0) n.natAbs 1

/-- `a (+) b` (R10). An exact zero has a minus sign only if both operands have one. -/
def add (x y : F32) : F32 :=
  if isFinite x && isFinite y then
    let v := value x + value y
    round (if v = 0 then isNeg x && isNeg y else v < 0) v.natAbs (2 ^ 149)
  else Config.f32Undefined

/-- `x` with the sign turned. -/
def neg (x : F32) : F32 := x ^^^ 0x80000000#32

/-- `a (-) b` (R10). -/
def sub (x y : F32) : F32 := add x (neg y)

/-- `a (*) b` (R10). -/
def mul (x y : F32) : F32 :=
  if isFinite x && isFinite y then round (isNeg x != isNeg y) (units x * units y) (2 ^ 298)
  else Config.f32Undefined

/-- `a (/) b` (R10). -/
def div (x y : F32) : F32 :=
  if isFinite x && isFinite y && units y != 0 then round (isNeg x != isNeg y) (units x) (units y)
  else Config.f32Undefined

/-- The integer square root of `n`, found bit by bit from bit `i - 1` down. -/
def isqrtFrom (n : Nat) : Nat → Nat → Nat
  | 0, r => r
  | i + 1, r => isqrtFrom n i (if (r + 2 ^ i) * (r + 2 ^ i) ≤ n then r + 2 ^ i else r)

/-- `fsqrt(a)` (R10). The root of `units * 2^149` is taken in units of 2^-149; where it is not exact, half a unit stands for the
rest, which no rounding boundary of the result can lie in. -/
def sqrt (x : F32) : F32 :=
  if isFinite x && (!isNeg x || units x = 0) then
    let n := units x * 2 ^ 149
    let r := isqrtFrom n 214 0
    round (isNeg x) (2 * r + if r * r = n then 0 else 1) (2 ^ 150)
  else Config.f32Undefined

/-- `a <= b` (R10), the order of values that are not NaN; on a NaN R10 gives none, and the answer is a free value (log 5). The pattern
of an infinity counts as a magnitude above every finite one. -/
def le (x y : F32) : Bool := if isNaN x || isNaN y then Config.f32UndefinedOrder else value x ≤ value y

/-- The record of R169. -/
def num : Config.Num := ⟨i2f, add, sub, mul, div, sqrt, le⟩

end Sys2Proof.Machine.Binary32
end

