-- ==== Sys2Proof/Machine/Normalizer.lean ====
section
/-! DEFINITION. The stick normalizer (45_stick_normalizer.md), over any arithmetic record `NUM` (R169). -/

namespace Sys2Proof.Machine

/-- `ONE` (R168). -/
def f32One : F32 := 0x3F800000
/-- `INNER` (R168). -/
def f32Inner : F32 := 0x3E19999A
/-- `OUTER` (R168). -/
def f32Outer : F32 := 0x3DCCCCCD
/-- `+0.0`. -/
def f32Zero : F32 := 0x00000000

/-- Stage 3, fraction (R164); `none` is the zero divisor. -/
def frac (N : Config.Num) (r min c max : Word) : Option F32 :=
  if c.toNat ≤ r.toNat then
    if max = c then none
    else some (N.div (N.i2f ((r.toNat : Int) - c.toNat)) (N.i2f ((max.toNat : Int) - c.toNat)))
  else some (N.div (N.i2f ((r.toNat : Int) - c.toNat)) (N.i2f ((c.toNat : Int) - min.toNat)))

/-- Stage 4, magnitude (R165). -/
def magnitude (N : Config.Num) (xf yf : F32) : F32 := N.sqrt (N.add (N.mul xf xf) (N.mul yf yf))

/-- `fmin` (R10). -/
def fmin (N : Config.Num) (a b : F32) : F32 := if N.le a b then a else b

/-- `legalRange` (R167). -/
def legalRange (N : Config.Num) : F32 := N.sub (N.sub f32One f32Outer) f32Inner

/-- `scale` (R167). -/
def scale (N : Config.Num) (m : F32) : F32 :=
  N.div (fmin N f32One (N.div (N.sub m f32Inner) (legalRange N))) m

/-- Stage 5 (R166, R167). -/
def deadzone (N : Config.Num) (xf yf : F32) : F32 × F32 :=
  let m := magnitude N xf yf
  if N.le m f32Inner then (f32Zero, f32Zero)
  else (N.mul xf (scale N m), N.mul yf (scale N m))

/-- The whole pipeline (R161); `none` is `CalibRange`. -/
def normalize (N : Config.Num) (rawX rawY xmin xc xmax ymin yc ymax : Word) : Option (F32 × F32) :=
  if calibOk xmin xc xmax && calibOk ymin yc ymax then
    match frac N (clamp rawX xmin xmax) xmin xc xmax, frac N (clamp rawY ymin ymax) ymin yc ymax with
    | some xf, some yf => some (deadzone N xf yf)
    | _, _ => none
  else none

/-- `NORM` (R161). -/
def execNorm (rawX rawY xmin xc xmax ymin yc ymax : Word) (s : State) : Result :=
  match normalize Binary32.num rawX rawY xmin xc xmax ymin yc ymax with
  | some (ox, oy) => respond .ok (word32 ox ++ word32 oy) s
  | none => raise .calibRange s

end Sys2Proof.Machine
end

