-- ==== Sys2Proof/Machine/Sequence.lean ====
section
/-! DEFINITION. The sequence counter (41_seq_counter.md); its advance is part of `sendFrame` (R112). -/

namespace Sys2Proof.Machine

/-- `SEQ.RST` (R111). -/
def execSeqRst (s : State) : Result := respond .ok [] (s.setSeq 0)

end Sys2Proof.Machine
end

