-- ==== Sys2Proof/Machine/Triplet.lean ====
section
/-! DEFINITION. The triplet packer and the sample unpacker (44_triplet_packer.md). -/

namespace Sys2Proof.Machine

/-- The four 12-bit samples of an input report (R155): `lx, ly, rx, ry`. -/
structure Sample where
  lx : Word
  ly : Word
  rx : Word
  ry : Word
  deriving DecidableEq, Repr

/-- The samples of the report in `RXBUF`, or the status R155 raises. -/
def readSample (s : State) : Except Status Sample :=
  if s.rxLen = 0 then .error .timeout
  else if s.rxLen ≤ Config.minReport then .error .shortRead
  else
    let b := Memory.byte s.rxbuf
    .ok ⟨tripletA (b 6) (b 7), tripletB (b 7) (b 8), tripletA (b 9) (b 10), tripletB (b 10) (b 11)⟩

/-- The 9 bytes of a calibration block, its triplets in order (R156). -/
def CalBlock.bytes (c : CalBlock) : List Byte :=
  [c.first.t0, c.first.t1, c.first.t2, c.second.t0, c.second.t1, c.second.t2, c.third.t0, c.third.t1, c.third.t2]

/-- The operation that packs a stick's parameters into their block (R156): `a = deadzone`, `b = range_ratio` (D21). -/
def StickParams.pack (p : StickParams) : Instr := .triPack p.deadzone p.rangeRatio

/-- The parameters that a parameter block holds (R156, D21). -/
def Triplet.params (t : Triplet) : StickParams := ⟨tripletA t.t0 t.t1, tripletB t.t1 t.t2⟩

/-- The parameters that the capture has found for a stick (R156, R206, R210). -/
def StickResult.params (r : StickResult) : StickParams := ⟨r.deadzone, r.rangeRatio⟩

/-- `TRI.PACK a, b` (R152). -/
def execTriPack (a b : Word) (s : State) : Result :=
  if isU12 a && isU12 b then respond .ok (tripletBytes a b) s else raise .operandRange s

/-- `TRI.UNPK t0, t1, t2` (R153). -/
def execTriUnpk (t0 t1 t2 : Byte) (s : State) : Result :=
  respond .ok (word16 (tripletA t0 t1) ++ word16 (tripletB t1 t2)) s

/-- `SMP.UNPK` (R155). -/
def execSmpUnpk (s : State) : Result :=
  answer ((readSample s).map fun v => word16 v.lx ++ word16 v.ly ++ word16 v.rx ++ word16 v.ry) s

end Sys2Proof.Machine
end

