-- ==== Sys2Proof/Machine/Dispatch.lean ====
section
/-! DEFINITION. One arm per constructor of Instr. -/

namespace Sys2Proof.Machine

def exec (i : Instr) (s : State) : Host.Outcome State Fault Refusal :=
  match i with
  | .crc8Init => Sys2Proof.Machine.execCrc8Init s
  | .crc8Upd b => Sys2Proof.Machine.execCrc8Upd b s
  | .crc8Get => Sys2Proof.Machine.execCrc8Get s
  | .crc8Buf bytes => Sys2Proof.Machine.execCrc8Buf bytes s
  | .seqRst => Sys2Proof.Machine.execSeqRst s
  | .encInfo cmd => Sys2Proof.Machine.execEncInfo cmd s
  | .encMode cmd mode => Sys2Proof.Machine.execEncMode cmd mode s
  | .encSpir cmd offset size => Sys2Proof.Machine.execEncSpir cmd offset size s
  | .encSpiw cmd offset data => Sys2Proof.Machine.execEncSpiw cmd offset data s
  | .rxLoad bytes => Sys2Proof.Machine.execRxLoad bytes s
  | .decAck => Sys2Proof.Machine.execDecAck s
  | .decMatch exp => Sys2Proof.Machine.execDecMatch exp s
  | .decInfo => Sys2Proof.Machine.execDecInfo s
  | .decSpir offset len => Sys2Proof.Machine.execDecSpir offset len s
  | .triPack a b => Sys2Proof.Machine.execTriPack a b s
  | .triUnpk t0 t1 t2 => Sys2Proof.Machine.execTriUnpk t0 t1 t2 s
  | .smpUnpk => Sys2Proof.Machine.execSmpUnpk s
  | .norm rawX rawY xmin xc xmax ymin yc ymax => Sys2Proof.Machine.execNorm rawX rawY xmin xc xmax ymin yc ymax s
  | .frameInfo cmd timer => Sys2Proof.Machine.execFrameInfo cmd timer s
  | .frameMode cmd timer mode => Sys2Proof.Machine.execFrameMode cmd timer mode s
  | .frameSpir cmd timer offset size => Sys2Proof.Machine.execFrameSpir cmd timer offset size s
  | .frameSpiw cmd timer offset data => Sys2Proof.Machine.execFrameSpiw cmd timer offset data s
  | .respInfo head rest => Sys2Proof.Machine.execRespInfo head rest s
  | .respSpiw head rest => Sys2Proof.Machine.execRespSpiw head rest s
  | .respSerial head rest => Sys2Proof.Machine.execRespSerial head rest s

end Sys2Proof.Machine
end

