-- ==== Sys2Proof/Machine/Transport.lean ====
section
/-! DEFINITION. The host's moves on the transport (R180, R181, R183) and what every host procedure shares: going on with a task,
ending one, and the choices the spec leaves to the host (log 12). -/

namespace Sys2Proof.Machine

/-- Put a task at the head of the agenda. -/
def State.plan (s : State) (t : Task) : State := s.setHost { s.host with agenda := t :: s.host.agenda }

/-- Go on with this task. -/
def goOn (t : Task) (s : State) : Result := .next (s.plan t)

/-- The procedure has ended with this result. -/
def finish (r : HostResult) (s : State) : Result := .next (s.setHost { s.host with result := r })

/-- The exchange is resolved if it asked for this (R249); any other stays as it is. -/
def State.resolve (s : State) (r : Request) : State := s.setExchange (s.host.exchange.filter fun e => e.request != r)

/-- A procedure whose frames asked for `own` has ended with this result: its exchange is resolved, by success or because the procedure
tries no more (R249; log 34). A procedure that has sent nothing ends with `finish`, which resolves nothing. -/
def endExchange (own : Request) (r : HostResult) (s : State) : Result := finish r (s.resolve own)

/-- What the next call of `write` comes to; with no answer listed, all 49 bytes are written and the device acts (log 11). -/
def State.nextWrite (s : State) : WriteEvent := s.transport.writes.headD (.done true)

/-- What the next call of `read_timeout` comes to; with no answer listed, it times out (log 11). -/
def State.nextRead (s : State) : ReadEvent := s.transport.reads.headD .timeout

/-- The device acts on the frame. -/
def WriteEvent.taken : WriteEvent → Bool
  | .done taken => taken
  | .failed taken => taken

/-- All 49 bytes were written. -/
def WriteEvent.complete : WriteEvent → Bool
  | .done _ => true
  | .failed _ => false

/-- One call of `write` has been answered. -/
def State.popWrite (s : State) : State := s.setTransport { s.transport with writes := s.transport.writes.tail }

/-- An exchange after a read has waited for its answer, and has failed or not. -/
def Exchange.afterRead (failed : Bool) (e : Exchange) : Exchange := { e with reads := e.reads + 1, failed := failed }

/-- One call of `read_timeout` with this argument has been answered. -/
def State.popRead (s : State) (ms : Nat) : State :=
  (s.setTransport { s.transport with reads := s.transport.reads.tail }).setHost
    { s.host with ms := ms, exchange := s.host.exchange.map (Exchange.afterRead (s.nextRead == .error)) }

/-- What the device makes of the 49 bytes of `TXBUF`: a frame it takes is a FRAME.* instruction. -/
def frameArrives (s : State) : Result :=
  if s.nextWrite.taken then
    match decode .tx s.txBytes with
    | some i => exec i s.popWrite
    | none => .refused .unknownFrame
  else .next s.popWrite

/-- What the frame in `TXBUF` asks for. -/
def State.asking (s : State) : Option Request := (decode .tx s.txBytes).bind frameRequest

/-- The request is to write `FLASH`. -/
def Request.isSpiWrite : Request → Bool
  | .spiWrite _ _ => true
  | .info | .mode _ | .spiRead _ _ => false

/-- When the host gives up waiting for the answer is open: the bound of an SPI read is `SPIR_MAX_READS` (R186), and the policy of a
set-mode frame is not in the source (N9). -/
def Request.policyOpen : Request → Bool
  | .mode _ | .spiRead _ _ => true
  | .info | .spiWrite _ _ => false

/-- The latest send of the exchange has failed in full: the transport has failed, the 8 reads are used up, or an SPI write has been
answered with zero bytes (R184, R185). -/
def State.sendFailed (s : State) (e : Exchange) : Bool :=
  e.failed || Config.retryInner ≤ e.reads || (e.request.isSpiWrite && 0 < e.reads && s.rxLen == 0)

/-- The retries of the exchange are exhausted: all 20 sends have failed (R184, R185). -/
def State.exhausted (s : State) (e : Exchange) : Bool := s.sendFailed e && Config.retryOuter ≤ e.failedSends + 1

/-- After this exchange a frame that asks for `r` may be written (R51, R249; log 34): after a failure of the transport any, since the host
may re-send or give up (D31, U14); after a read a re-send of the same (R184 to R186), and any other frame if the retries are exhausted or
it is for the host to say when they are. -/
def State.mayFollow (s : State) (e : Exchange) (r : Request) : Bool :=
  e.failed || (0 < e.reads && (e.request == r || e.request.policyOpen || s.exhausted e))

/-- A frame that asks for this would be a second one outstanding (R51, R249). -/
def State.outstanding (s : State) (r : Request) : Bool := s.host.exchange.any fun e => !s.mayFollow e r

/-- The exchange after a frame that asks for this: the one before goes on if the frame is its re-send, with one more send failed if it
had failed in full, and else a new one begins. -/
def State.nextExchange (s : State) (r : Request) (complete : Bool) : Exchange :=
  match s.host.exchange with
  | some e =>
    if e.request == r && !s.exhausted e then ⟨r, if s.sendFailed e then e.failedSends + 1 else e.failedSends, 0, !complete⟩
    else ⟨r, 0, 0, !complete⟩
  | none => ⟨r, 0, 0, !complete⟩

/-- A frame that asks for this has been handed to the transport. Bytes that are no frame ask nothing and begin no exchange. -/
def State.noteWrite (s : State) (asked : Option Request) (complete : Bool) : State :=
  match asked with
  | some r => s.setHost { s.host with asked := some r, exchange := some (s.nextExchange r complete), sent := true }
  | none => s

/-- Why the host does not write the frame in `TXBUF`, if there is a reason: it never writes the same frame twice (R113), nor a second
frame while the first is unresolved (R51, R249). -/
def State.writeRefused (s : State) : Option Refusal :=
  match s.asking with
  | some r => if s.host.sent then some .frameSent else if s.outstanding r then some .frameOutstanding else none
  | none => none

/-- The host hands the 49 bytes of `TXBUF` to the transport (R127). -/
def transportWrite (s : State) : Result :=
  if s.host.session then
    match s.writeRefused with
    | some e => .refused e
    | none => andThen (frameArrives s) fun t => .next (t.noteWrite s.asking s.nextWrite.complete)
  else .fault .noSession

/-- In the view of a response that is chosen by what the host asked (R61, 90_conflicts.md C1; log 35), do bytes 0xD and 0xE hold an
acknowledgment code that makes it this row? After an info or SPI-write frame they do, and so while nothing has been asked; after a
set-mode frame no code is given (R70), and what arrives may be an input report; after an SPI-read frame they hold the echo, unless the
serial number was asked for (R189). -/
def viewHas (asked : Option Request) (i : Instr) : Bool :=
  match asked with
  | none => true
  | some .info => true
  | some (.spiWrite _ _) => true
  | some (.mode _) => false
  | some (.spiRead _ _) =>
    match i with
    | .respSerial _ _ => true
    | .respInfo _ _ | .respSpiw _ _ => false
    | .frameInfo _ _ | .frameMode _ _ _ | .frameSpir _ _ _ _ | .frameSpiw _ _ _ _ => false
    | .crc8Init | .crc8Upd _ | .crc8Get | .crc8Buf _ | .seqRst => false
    | .encInfo _ | .encMode _ _ | .encSpir _ _ _ | .encSpiw _ _ _ => false
    | .rxLoad _ | .decAck | .decMatch _ | .decInfo | .decSpir _ _ => false
    | .triPack _ _ | .triUnpk _ _ _ | .smpUnpk | .norm _ _ _ _ _ _ _ _ => false

/-- A read has delivered these bytes, and the host loads them (R183): a response that its view makes a row of the opcode table is a
RESP.* instruction, any other is loaded with `RX.LOAD`. -/
def receiveBytes (bytes : List Byte) (s : State) : Result :=
  match (decode .rx bytes).filter (viewHas s.host.asked) with
  | some i => exec i s
  | none => exec (.rxLoad bytes) s

/-- The bytes the next read brings (R180, R183): none of them on a time-out, and `none` for an error, of which the block cannot be
told (R131, U14). -/
def State.arriving (s : State) : Option (List Byte) :=
  match s.nextRead with
  | .timeout => some []
  | .deliver bytes => some bytes
  | .answer noise => some (answerFrom s.device 0 noise)
  | .error => none

/-- `attempt(t_ms)` (R183): a read that timed out loads 0 bytes. -/
def transportRead (ms : Nat) (s : State) : Result :=
  if s.host.session then
    match s.arriving with
    | some bytes => receiveBytes bytes (s.popRead ms)
    | none => .next (s.popRead ms)
  else .fault .noSession

/-- A frame has been built: on with it, a fresh one to send (R113). -/
def goOnWithFrame (t : Task) (s : State) : Result := goOn t (s.setSent false)

/-- The host's next choice, `carryOn` where none is listed (log 12). -/
def State.nextChoice (s : State) : Choice := s.host.choices.headD .carryOn

/-- The choice has been made. -/
def State.popChoice (s : State) : State := s.setHost { s.host with choices := s.host.choices.tail }

/-- After a transport failure in an exchange of one's own: carry on, send again, or give up (R127, D31; log 12). -/
def afterFailure (own : Request) (carryOn resend : State → Result) (s : State) : Result :=
  match s.nextChoice with
  | .carryOn => carryOn s.popChoice
  | .resend => resend s.popChoice
  | .giveUp => endExchange own .gaveUp s.popChoice

/-- The `write` of a procedure whose frame asks for `own`. -/
def hostWrite (own : Request) (carryOn resend : State → Result) (s : State) : Result :=
  andThen (transportWrite s) fun t =>
    match s.nextWrite with
    | .done _ => carryOn t
    | .failed _ => afterFailure own carryOn resend t

/-- The read attempt of a procedure: on to the judgement, or, after an error of the transport, to what the procedure does then
(U14; log 12). -/
def hostRead (ms : Nat) (judge failed : State → Result) (s : State) : Result :=
  andThen (transportRead ms s) fun t => if s.arriving.isSome then judge t else failed t

/-- The settle delay passes (R196). -/
def State.settle (s : State) : State := s.setHost { s.host with settleOwed := false, ms := Config.tSettle }

/-- `DEC.ACK` has answered with a code that answers a set-mode frame, by the open test (N9; log 31). -/
def State.modeAccepted (s : State) : Bool := s.status == Status.ok.code && Config.modeAnswer (le16 s.res.tail)

/-- The decode operation `i`, which has answered in `s`, is the one that judges the answer to what was asked, and has ended with success
(R182, R184 to R186, R189; log 34). -/
def endsExchange (asked : Request) (i : Instr) (s : State) : Bool :=
  let ok := s.status == Status.ok.code
  match asked with
  | .info => (i == .decInfo || i == .decMatch Config.ackInfo) && ok
  | .mode _ => i == .decAck && s.modeAccepted
  | .spiRead offset size =>
    (i == .decMatch Config.ackSerial && ok) ||
      (i == .decSpir offset size && (ok || s.status == Status.shortRead.code))
  | .spiWrite _ _ => i == .decMatch Config.ackSpiw && ok

/-- `i`, which has answered in `s`, has found the acknowledgment of an SPI write in the response (R134, R185). -/
def findsSpiwAck (i : Instr) (s : State) : Bool := i == .decMatch Config.ackSpiw && s.status == Status.ok.code

/-- `i`, which has answered in `s`, has built a frame (R112). -/
def buildsFrame (i : Instr) (s : State) : Bool :=
  match i with
  | .encInfo _ | .encMode _ _ | .encSpir _ _ _ | .encSpiw _ _ _ => s.status == Status.ok.code
  | .crc8Init | .crc8Upd _ | .crc8Get | .crc8Buf _ | .seqRst => false
  | .rxLoad _ | .decAck | .decMatch _ | .decInfo | .decSpir _ _ => false
  | .triPack _ _ | .triUnpk _ _ _ | .smpUnpk | .norm _ _ _ _ _ _ _ _ => false
  | .frameInfo _ _ | .frameMode _ _ _ | .frameSpir _ _ _ _ | .frameSpiw _ _ _ _ => false
  | .respInfo _ _ | .respSpiw _ _ | .respSerial _ _ => false

/-- What the host notes of a single operation that has answered: one that ends the exchange with success resolves it, if a read has
waited for the answer (R249; log 34), one that finds the acknowledgment of an SPI write makes the settle delay owed, wherever the
response came from (R196, R251; log 7), and one that builds a frame makes it the next to send (R113). -/
def State.conclude (s : State) (i : Instr) : State :=
  s.setHost { s.host with
    exchange := s.host.exchange.filter fun e => !(0 < e.reads && endsExchange e.request i s)
    settleOwed := s.host.settleOwed || findsSpiwAck i s
    sent := s.host.sent && !buildsFrame i s }

/-- A command transaction on the CMD port (R71): a string that is no operation is answered `IllegalOp` (R75, R226). -/
def issue (ct : List Byte) (s : State) : Result :=
  match decode .cmd ct with
  | some i => andThen (exec i s) fun t => .next (t.conclude i)
  | none => raise .illegalOp s

/-- `open` has returned (R243): with a handle, `SEQ.RST` is the first operation of the session, and an exchange of an earlier one, of
which this session waits for no answer, is over (log 34). -/
def openSession (handle : Option Kind) (s : State) : Result :=
  match handle with
  | some k => andThen (exec .seqRst s) fun t => .next (t.setHost { t.host with session := true, kind := k, exchange := none })
  | none => .next (s.setHost { s.host with session := false })

end Sys2Proof.Machine
end

