-- ==== Sys2Proof/Machine/CalibrationCapture.lean ====
section
/-! DEFINITION. The calibration capture (47_calibration_capture.md), one move at a time. -/

namespace Sys2Proof.Machine

/-- The controller has a left stick (R194, R201). -/
def Kind.hasLeft : Kind → Bool
  | .both => true
  | .leftOnly => true
  | .rightOnly => false

/-- The controller has a right stick (R194, R201). -/
def Kind.hasRight : Kind → Bool
  | .both => true
  | .leftOnly => false
  | .rightOnly => true

/-- Track one value (R202). -/
def Track.add (t : Track) (v : Word) : Track :=
  ⟨if v.toNat < t.lo.toNat then v else t.lo, if t.hi.toNat < v.toNat then v else t.hi⟩

/-- No sample has been tracked in this phase: the accumulator is as R203 starts it. -/
def Track.isEmpty (t : Track) : Bool := t == Track.init

/-- `(min+max)/2`, rounding down (R205). -/
def Track.center (t : Track) : Word := BitVec.ofNat 16 ((t.lo.toNat + t.hi.toNat) / 2)

/-- `(max-min)/2`, rounding down (R206). -/
def Track.halfSpread (t : Track) : Nat := (t.hi.toNat - t.lo.toNat) / 2

/-- The stick's one deadzone (R206). -/
def deadzoneOf (x y : Track) (padInner : Nat) : Word :=
  BitVec.ofNat 16 (min (max x.halfSpread y.halfSpread + padInner) 0xFFF)

/-- A maximum with the outer padding (R208). -/
def padMax (hi : Word) (pad : Nat) : Word := BitVec.ofNat 16 (if pad ≤ hi.toNat then hi.toNat - pad else 0)

/-- A minimum with the outer padding (R208). -/
def padMin (lo : Word) (pad : Nat) : Word := BitVec.ofNat 16 (if lo.toNat + pad ≤ 0xFFF then lo.toNat + pad else 0xFFF)

/-- FREE VALUE number `n` of the capture, a 12-bit value in a `u16` (logs 16, 17). -/
def freeWord (n : Nat) : Word := (Config.freeU12 n).setWidth 16

/-- The results of phase 1 for one stick (R205, R206); of a phase without samples they have no value (R203): free values. -/
def centerResult (x y : Track) (padInner free : Nat) (r : StickResult) : StickResult :=
  if x.isEmpty || y.isEmpty then
    { r with xcenter := freeWord free, ycenter := freeWord (free + 1), deadzone := freeWord (free + 2) }
  else { r with xcenter := x.center, ycenter := y.center, deadzone := deadzoneOf x y padInner }

/-- `max(xmax, ymax) - min(xmin, ymin)` on the final bounds (R210); a spread below 0 has no value the spec states (log 17). -/
def spread (xmin xmax ymin ymax : Word) (free : Nat) : Word :=
  let hi := max xmax.toNat ymax.toNat
  let lo := min xmin.toNat ymin.toNat
  if lo ≤ hi then BitVec.ofNat 16 (hi - lo) else freeWord free

/-- The range ratio (R210): always the measured spread, unless `RR_KINDS` is given and has this kind of controller (log 33). -/
def rangeRatio (params : CaptureParams) (k : Kind) (xmin xmax ymin ymax : Word) (free : Nat) : Word :=
  if k ∈ params.rrKinds then params.rrConst.setWidth 16 else spread xmin xmax ymin ymax free

/-- The results of phase 2 and the finalization for one stick (R208, R209, R210). -/
def rangeResult (x y : Track) (params : CaptureParams) (k : Kind) (free : Nat) (r : StickResult) : StickResult :=
  let empty := x.isEmpty || y.isEmpty
  let pad := params.padOuter
  let xmin := if empty then freeWord free else padMin x.lo pad
  let xmax := if empty then freeWord (free + 1) else padMax x.hi pad
  let ymin := if empty then freeWord (free + 2) else padMin y.lo pad
  let ymax := if empty then freeWord (free + 3) else padMax y.hi pad
  { r with
    xmin := xmin, xmax := xmax, ymin := ymin, ymax := ymax
    rangeRatio := rangeRatio params k xmin xmax ymin ymax (free + 4) }

/-- The accumulators as a phase starts (R203), the results found so far kept. -/
def Capture.restart (c : Capture) (phase : Phase) : Capture :=
  { c with phase := phase, lx := Track.init, ly := Track.init, rx := Track.init, ry := Track.init }

/-- Track one sample, for the sticks the controller has (R201, R202). -/
def Capture.track (c : Capture) (k : Kind) (v : Sample) : Capture :=
  { c with
    lx := if k.hasLeft then c.lx.add v.lx else c.lx
    ly := if k.hasLeft then c.ly.add v.ly else c.ly
    rx := if k.hasRight then c.rx.add v.rx else c.rx
    ry := if k.hasRight then c.ry.add v.ry else c.ry }

/-- The end of phase 1 (R205, R206, R211). -/
def Capture.endCenter (c : Capture) (k : Kind) (padInner free : Nat) : Capture :=
  { c.restart .awaitingRangeSample with
    left := if k.hasLeft then centerResult c.lx c.ly padInner free c.left else c.left
    right := if k.hasRight then centerResult c.rx c.ry padInner (free + 3) c.right else c.right }

/-- The end of phase 2 (R208 to R211). -/
def Capture.endRange (c : Capture) (k : Kind) (params : CaptureParams) (free : Nat) : Capture :=
  { c with
    phase := .done
    left := if k.hasLeft then rangeResult c.lx c.ly params k free c.left else c.left
    right := if k.hasRight then rangeResult c.rx c.ry params k (free + 5) c.right else c.right }

/-- Write the capture. -/
def State.setCapture (s : State) (c : Capture) : State := s.setHost { s.host with capture := c }

/-- A usable report has been unpacked (R201, R204, R211): it ends the phase, and then its own sample is not tracked, or its sample
is tracked. -/
def observe (cmd : Byte) (params : CaptureParams) (v : Sample) (s : State) : Result :=
  let c := s.host.capture
  let again := goOn (.capture cmd params .read)
  match c.phase with
  | .awaitingCenterSample =>
      if Config.termCenter s.rxBytes then
        again (s.setHost
          { s.host with capture := c.endCenter s.host.kind params.padInner s.host.free, free := s.host.free + 6 })
      else again (s.setCapture (c.track s.host.kind v))
  | .awaitingRangeSample =>
      if Config.termRange s.rxBytes then
        finish (.done .ok [])
          (s.setHost { s.host with capture := c.endRange s.host.kind params s.host.free, free := s.host.free + 10 })
      else again (s.setCapture (c.track s.host.kind v))
  | .done => finish (.done .ok []) s

/-- The set-mode frame has no answer yet: read again, send it again, or give up (N9; log 31). -/
def modeUnanswered (task : CapturePoint → Task) : State → Result :=
  afterFailure (.mode Config.modeStd) (goOn (task .answer)) (goOn (task .mode))

/-- The capture (R200, R201, R212). Before its first phase `ENC.MODE cmd, 0x30` is sent and answered (R190, R245; log 31), and then it
starts afresh (R33). From there it ends only in phase `Done`: a report that `SMP.UNPK` refuses is ignored, whole (log 25), and a read
that failed is followed by the next (log 12). -/
def stepCapture (cmd : Byte) (params : CaptureParams) (point : CapturePoint) (s : State) : Result :=
  let task := Task.capture cmd params
  match point with
  | .mode => andThen (exec (.encMode cmd Config.modeStd) s) (goOnWithFrame (task .write))
  | .write => hostWrite (.mode Config.modeStd) (goOn (task .answer)) (goOn (task .mode)) s
  | .answer => hostRead Config.tReadM (goOn (task .accept)) (modeUnanswered task) s
  | .accept => andThen (exec .decAck s) fun t =>
      if t.modeAccepted then goOn (task .read) ((t.setCapture Capture.blank).resolve (.mode Config.modeStd))
      else modeUnanswered task t
  | .read => hostRead Config.tReadC (goOn (task .judge)) (goOn (task .read)) s
  | .judge => andThen (exec .smpUnpk s) fun t =>
      match readSample t with
      | .ok v => observe cmd params v t
      | .error _ => goOn (task .read) t

end Sys2Proof.Machine
end

