-- ==== Sys2Proof/Machine/HostSequencer.lean ====
section
/-! DEFINITION. The procedures of the retry engine and the flash accessor (46_host_sequencer.md), one move at a time. -/

namespace Sys2Proof.Machine

/-- The start of a procedure. -/
def Progress.start : Progress := ⟨0, 0, .send⟩

/-- The move after this one, in the same exchange. -/
def Progress.at (p : Progress) (point : Point) : Progress := { p with point := point }

/-- The next read attempt of the same exchange. -/
def Progress.reread (p : Progress) : Progress := { p with reads := p.reads + 1, point := .read }

/-- The next exchange, a fresh send. -/
def Progress.resend (p : Progress) : Progress := ⟨p.sends + 1, 0, .send⟩

/-- A bounded policy after a failed exchange: a fresh one, or the end after `RETRY_OUTER` (R184, R185). -/
def resendOrFail (own : Request) (task : Progress → Task) (p : Progress) (s : State) : Result :=
  if p.sends + 1 < Config.retryOuter then goOn (task p.resend) s
  else endExchange own (.done .retryBudgetExhausted []) s

/-- A bounded policy after a failed read: another one, or, after `RETRY_INNER`, another exchange (R184, R185). -/
def rereadOrResend (own : Request) (task : Progress → Task) (p : Progress) (s : State) : Result :=
  if p.reads + 1 < Config.retryInner then goOn (task p.reread) s
  else resendOrFail own task p s

/-- A bounded policy after a transport failure: the host's choice, a failed read or a failed exchange (log 12). -/
def boundedFailure (own : Request) (task : Progress → Task) (p : Progress) : State → Result :=
  afterFailure own (rereadOrResend own task p) (resendOrFail own task p)

/-- What the frame of a query asks for. -/
def Query.asks : Query → Request
  | .info => .info
  | .serial offset size => .spiRead offset size

/-- The encode operation of a query (R184, R189). -/
def Query.request (cmd : Byte) : Query → Instr
  | .info => .encInfo cmd
  | .serial offset size => .encSpir cmd offset size

/-- The decode operation that judges its answer (R184, R189). -/
def Query.judge : Query → Instr
  | .info => .decInfo
  | .serial _ _ => .decMatch Config.ackSerial

/-- Policy 2 (R184): a read of zero bytes counts as one of the 8 attempts. -/
def stepQuery (q : Query) (cmd : Byte) (p : Progress) (s : State) : Result :=
  let task := Task.query q cmd
  let own := q.asks
  match p.point with
  | .send => andThen (exec (q.request cmd) s) (goOnWithFrame (task (p.at .write)))
  | .write => hostWrite own (goOn (task (p.at .read))) (resendOrFail own task p) s
  | .read => hostRead Config.tReadI (goOn (task (p.at .judge))) (boundedFailure own task p) s
  | .judge => andThen (exec q.judge s) fun t =>
      if t.status = Status.ok.code then endExchange own (.done .ok t.res.tail) t else rereadOrResend own task p t

/-- Policy 3 (R185): a read of zero bytes leaves the inner loop; from the acknowledgment on the settle delay is owed (R196). Data the encoder refuses end the procedure before anything is
sent (R188; log 18), and so leave an unresolved exchange as it is (log 34). -/
def stepWriteSpi (cmd : Byte) (offset : Offset) (data : List Byte) (rest : List FlashWrite) (p : Progress) (s : State) : Result :=
  let task := Task.writeSpi cmd offset data rest
  let own := Request.spiWrite offset data
  match p.point with
  | .send => andThen (exec (.encSpiw cmd offset data) s) fun t =>
      if t.status = Status.ok.code then goOnWithFrame (task (p.at .write)) t else finish (.done .operandRange []) t
  | .write => hostWrite own (goOn (task (p.at .read))) (resendOrFail own task p) s
  | .read => hostRead Config.tReadW (goOn (task (p.at .judge))) (boundedFailure own task p) s
  | .judge =>
      if s.rxLen = 0 then resendOrFail own task p s
      else andThen (exec (.decMatch Config.ackSpiw) s) fun t =>
        if t.status = Status.ok.code then goOn (.settle cmd rest) (t.resolve own).oweSettle
        else rereadOrResend own task p t

/-- The writes of a plan that are left (R195): on with the first of them, or, with none left, the end. -/
def continuePlan (cmd : Byte) (plan : List FlashWrite) (s : State) : Result :=
  match plan with
  | [] => finish (.done .ok []) s
  | .calibration offset block :: rest => goOn (.writeSpi cmd offset block.bytes rest Progress.start) s
  | .parameters offset params :: rest => goOn (.packParams cmd offset params rest) s

/-- After an acknowledged SPI write (R195, R196): the settle delay, then the rest of the plan. -/
def stepSettle (cmd : Byte) (rest : List FlashWrite) (s : State) : Result := continuePlan cmd rest s.settle

/-- The parameters of a plan are packed by the block's packer (R156), and the three bytes are what is written; parameters that it
refuses end the plan with `OperandRange` (log 32); nothing is sent, and no exchange is resolved (log 34). -/
def stepPackParams (cmd : Byte) (offset : Offset) (params : StickParams) (rest : List FlashWrite) (s : State) : Result :=
  andThen (exec params.pack s) fun t =>
    if t.status = Status.ok.code then goOn (.writeSpi cmd offset t.res.tail rest Progress.start) t
    else finish (.done .operandRange []) t

/-- The bound `SPIR_MAX_READS`, if there is one, has been reached by this many failed reads (R186; log 23). -/
def readsUsedUp (bound : Option Nat) (reads : Nat) : Bool := bound.any fun n => n ≤ reads

/-- The SPI read goes round again (R186, R253): another read, before which the host may send the request again; a failed read never
ends it, so giving up is read as carrying on (log 12). -/
def readAgain (task : Progress → Task) (p : Progress) (s : State) : Result :=
  match s.nextChoice with
  | .resend => goOn (task ⟨p.sends + 1, p.reads + 1, .send⟩) s.popChoice
  | .carryOn => goOn (task p.reread) s.popChoice
  | .giveUp => goOn (task p.reread) s.popChoice

/-- A read of the SPI read has failed (R186, U4): with that the bound may be reached, and then it ends with `Timeout` and no re-send; else
it goes round again. -/
def readFailed (own : Request) (task : Progress → Task) (bound : Option Nat) (p : Progress) (s : State) : Result :=
  if readsUsedUp bound (p.reads + 1) then endExchange own (.done .timeout []) s else readAgain task p s

/-- Policy 1 (R186, R187): loop until an answer matches; `ShortRead` ends it too, with its zero bytes. A failed `write` of its request
may be followed by giving up, as D31 has it of every `write`; a read that failed goes round again like one that timed out (log 12). With a
bound of 0 it sends its request and ends without a read (log 23). -/
def stepReadSpi (cmd : Byte) (offset : Offset) (len : Word) (bound : Option Nat) (p : Progress) (s : State) : Result :=
  let task := Task.readSpi cmd offset len bound
  let own := Request.spiRead offset len
  match p.point with
  | .send => andThen (exec (.encSpir cmd offset len) s) (goOnWithFrame (task (p.at .write)))
  | .write => hostWrite own (goOn (task (p.at .read))) (goOn (task ⟨p.sends + 1, p.reads, .send⟩)) s
  | .read =>
      if readsUsedUp bound p.reads then endExchange own (.done .timeout []) s
      else hostRead Config.tReadR (goOn (task (p.at .judge))) (readFailed own task bound p) s
  | .judge => andThen (exec (.decSpir offset len) s) fun t =>
      if t.status = Status.ok.code then endExchange own (.done .ok t.res.tail) t
      else if t.status = Status.shortRead.code then endExchange own (.done .shortRead t.res.tail) t
      else readFailed own task bound p t

/-- The calibration writes by controller kind, in their fixed order (R193, R194, R195, R252). -/
def writePlan (k : Kind) (rightCal : CalBlock) (rightPar : StickParams) (leftCal : CalBlock) (leftPar : StickParams) :
    List FlashWrite :=
  match k with
  | .both =>
    [.calibration Config.addrCalR rightCal, .parameters Config.addrParR rightPar,
      .calibration Config.addrCalL leftCal, .parameters Config.addrParL leftPar]
  | .rightOnly => [.calibration Config.addrCalR rightCal, .parameters Config.addrParL rightPar]
  | .leftOnly => [.calibration Config.addrCalL leftCal, .parameters Config.addrParL leftPar]

/-- The start of the calibration writes. They are sent whatever the blocks hold: whether the host should refuse a calibration that breaks
`min <= center <= max` is not in the source (R209; log 32). -/
def stepCalibrate (cmd : Byte) (rightCal : CalBlock) (rightPar : StickParams) (leftCal : CalBlock) (leftPar : StickParams)
    (s : State) : Result :=
  continuePlan cmd (writePlan s.host.kind rightCal rightPar leftCal leftPar) s

end Sys2Proof.Machine
end

