-- ==== Sys2Proof/Machine/Tasks.lean ====
section
/-! DEFINITION. What the host does at its next move (R181), by the task at the head of its agenda. -/

namespace Sys2Proof.Machine

/-- One move of a task that has been taken off the agenda; a procedure that has not ended puts itself back. -/
def runTask (t : Task) (s : State) : Result :=
  match t with
  | .issue ct => issue ct s
  | .write => transportWrite s
  | .read ms => transportRead ms s
  | .wait => .next s.settle
  | .reset => .next s.resetBlock
  | .openSession handle => openSession handle s
  | .query q cmd p => stepQuery q cmd p s
  | .writeSpi cmd offset data rest p => stepWriteSpi cmd offset data rest p s
  | .settle cmd rest => stepSettle cmd rest s
  | .packParams cmd offset params rest => stepPackParams cmd offset params rest s
  | .readSpi cmd offset len bound p => stepReadSpi cmd offset len bound p s
  | .calibrate cmd rightCal rightPar leftCal leftPar => stepCalibrate cmd rightCal rightPar leftCal leftPar s
  | .capture cmd params point => stepCapture cmd params point s

/-- The agenda without its head. -/
def State.popTask (s : State) : State := s.setHost { s.host with agenda := s.host.agenda.tail }

/-- The state in which the next move is to run the instruction these bytes on this port stand for (log 1): a transaction is issued, a
frame stands in `TXBUF` and is written, a response is what the next read delivers, nothing having been asked that would give it another
view (R61; log 35). -/
def State.fetchBytes (s : State) (port : Port) (bytes : List Byte) : State :=
  match port with
  | .cmd => s.plan (.issue bytes)
  | .tx =>
    (((s.setTx bytes).setTransport { s.transport with writes := .done true :: s.transport.writes }).setHost
      { s.host with session := true, sent := false }).plan .write
  | .rx =>
    ((s.setTransport { s.transport with reads := .deliver bytes :: s.transport.reads }).setHost
      { s.host with session := true, asked := none }).plan (.read s.host.ms)

end Sys2Proof.Machine
end

