-- ==== Sys2Proof/Machine/Step.lean ====
section
/-! DEFINITION. One step: the host's next move; with nothing planned the machine is idle and stays as it is (R244, R259; log 21). -/

namespace Sys2Proof.Machine

/-- One step. -/
def step (s : State) : Host.Outcome State Fault Refusal :=
  match s.host.agenda with
  | [] => .next s
  | t :: _ => runTask t s.popTask

/-- `s` with the instruction of a word of the opcode table as what the next step fetches and runs (logs 1, 20). -/
def State.withFetchWord (s : State) (nbits w : Nat) : State :=
  s.fetchBytes (tableBytes nbits w).1 (tableBytes nbits w).2

end Sys2Proof.Machine
end

