-- ==== Sys2Proof/Safety.lean ====
section
/-! DEFINITION. What holds of every state a run reaches: the invariant of the step. -/

namespace Sys2Proof.Machine

/-- `TXBUF` is 49 bytes in canonical form, and, unless it is still all zero, a command frame of the opcode table (R26, R60, R244). -/
def State.txOk (s : State) : Bool :=
  Memory.wf (some 0) Config.frameLen s.txbuf && (s.txbuf.isEmpty || (decode .tx s.txBytes).isSome)

/-- `rx_len` is at most 0x170 (R24), and `RXBUF`, in canonical form, lists nothing at or past it (R27). -/
def State.rxOk (s : State) : Bool :=
  s.rxLen ≤ Config.respMax && Memory.wf (some 0) s.rxLen s.rxbuf

/-- `FLASH` is in canonical form with 32-bit addresses (R40). -/
def State.flashOk (s : State) : Bool := Memory.wf none (2 ^ 32) s.device.flash

/-- An accumulator holds 12-bit values, and is as R203 starts it or has its minimum at or below its maximum (R32, R215). -/
def Track.ok (t : Track) : Bool :=
  isU12 t.lo && isU12 t.hi && (t.isEmpty || t.lo.toNat ≤ t.hi.toNat)

/-- The results of the capture are 12-bit values (R209, R210). -/
def StickResult.ok (r : StickResult) : Bool :=
  isU12 r.xcenter && isU12 r.ycenter && isU12 r.deadzone && isU12 r.xmin && isU12 r.xmax && isU12 r.ymin &&
    isU12 r.ymax && isU12 r.rangeRatio

/-- The capture holds legal values (R32, R209). -/
def Capture.ok (c : Capture) : Bool :=
  c.lx.ok && c.ly.ok && c.rx.ok && c.ry.ok && c.left.ok && c.right.ok

/-- The retry counters of a bounded procedure are below their caps (R184, R185). -/
def Progress.bounded (p : Progress) : Bool := p.sends < Config.retryOuter && p.reads < Config.retryInner

/-- The retry counters of a task are in range. -/
def Task.ok : Task → Bool
  | .query _ _ p => p.bounded
  | .writeSpi _ _ _ _ p => p.bounded
  | .issue _ => true
  | .write => true
  | .read _ => true
  | .wait => true
  | .reset => true
  | .openSession _ => true
  | .settle _ _ => true
  | .packParams _ _ _ _ => true
  | .readSpi _ _ _ _ _ => true
  | .calibrate _ _ _ _ _ => true
  | .capture _ _ _ => true

/-- An exchange that is not resolved has fewer failed sends than the retry engine makes (R184, R185). -/
def Exchange.ok (e : Exchange) : Bool := e.failedSends < Config.retryOuter

/-- The invariant of the machine. -/
structure State.Inv (s : State) : Prop where
  tx : s.txOk = true
  rx : s.rxOk = true
  flash : s.flashOk = true
  capture : s.host.capture.ok = true
  agenda : s.host.agenda.all Task.ok = true
  exchange : s.host.exchange.all Exchange.ok = true

end Sys2Proof.Machine
end

