-- ==== Sys2Proof/Certificates/Slice0/Obligations.lean ====
section
/-! DEFINITION. The statements for the provers, and the words they are stated in (namespace Sys2Proof.Claims): the rules' own
formulas, written apart from the model's definitions. -/

namespace Sys2Proof.Claims

open Sys2Proof.Machine

/-- One of the eight rounds of R101. -/
def crcRound (r : Byte) : Byte := if r.getLsbD 7 then (r <<< 1) ^^^ 0x07 else r <<< 1

/-- The entry R101 derives for `i`. -/
def crcEntry (i : Byte) : Byte :=
  crcRound (crcRound (crcRound (crcRound (crcRound (crcRound (crcRound (crcRound i)))))))

/-- Instructions one after the other. -/
def execAll : List Instr → State → Result
  | [], s => .next s
  | i :: is, s => andThen (exec i s) (execAll is)

/-- The four encode operations (R112). -/
def isEncode : Instr → Bool
  | .encInfo _ => true
  | .encMode _ _ => true
  | .encSpir _ _ _ => true
  | .encSpiw _ _ _ => true
  | _ => false

/-- The operations whose result is computed from the response in `RXBUF` (R130, R155). -/
def readsResponse : Instr → Bool
  | .decAck => true
  | .decMatch _ => true
  | .decInfo => true
  | .decSpir _ _ => true
  | .smpUnpk => true
  | _ => false

/-- The operations R213 lists as writing nothing, and `CRC8.GET`. -/
def writesNothing (i : Instr) : Bool :=
  readsResponse i ||
    match i with
    | .crc8Get => true
    | .triPack _ _ => true
    | .triUnpk _ _ _ => true
    | .norm _ _ _ _ _ _ _ _ => true
    | _ => false

/-- The status codes an operation can end with (R213, R221). -/
def statuses : Instr → List Byte
  | .crc8Init => [0x00]
  | .crc8Upd _ => [0x00]
  | .crc8Get => [0x00]
  | .crc8Buf _ => [0x00]
  | .seqRst => [0x00]
  | .encInfo _ => [0x00]
  | .encMode _ _ => [0x00]
  | .encSpir _ _ _ => [0x00]
  | .encSpiw _ _ _ => [0x00, 0x11]
  | .rxLoad _ => [0x00, 0x11]
  | .decAck => [0x00, 0x01, 0x02]
  | .decMatch _ => [0x00, 0x01, 0x02]
  | .decInfo => [0x00, 0x01, 0x02, 0x03]
  | .decSpir _ _ => [0x00, 0x01, 0x02, 0x03]
  | .triPack _ _ => [0x00, 0x11]
  | .triUnpk _ _ _ => [0x00]
  | .smpUnpk => [0x00, 0x01, 0x03]
  | .norm _ _ _ _ _ _ _ _ => [0x00, 0x12]
  | .frameInfo _ _ => []
  | .frameMode _ _ _ => []
  | .frameSpir _ _ _ _ => []
  | .frameSpiw _ _ _ _ => []
  | .respInfo _ _ => []
  | .respSpiw _ _ => []
  | .respSerial _ _ => []

/-- After an encode operation in `s` that built the 49 bytes `f` (R112, R120): they stand in `TXBUF` and on the RES port after `OK`,
`seq` has advanced, and nothing else has changed. -/
structure Sent (s t : State) (f : List Byte) : Prop where
  tx : t.txBytes = f
  outside : ∀ a, 49 ≤ a → Memory.byte t.txbuf a = 0
  res : t.res = 0x00 :: f
  seq : t.seq = s.seq + 1
  frame : t.crc = s.crc ∧ t.rxLen = s.rxLen ∧ t.rxbuf = s.rxbuf ∧ t.host = s.host ∧ t.transport = s.transport ∧
    t.device = s.device

/-- The bytes 0 to 2 of a frame built in `s` (R120). -/
def header (s : State) (cmd sub : Byte) : List Byte := [cmd, s.seq.setWidth 8, sub]

/-- The four bytes of an offset, lowest first (R65). -/
def offsetBytes (o : Offset) : List Byte :=
  [o.extractLsb' 0 8, o.extractLsb' 8 8, o.extractLsb' 16 8, o.extractLsb' 24 8]

/-- The two bytes of a 16-bit value, low byte first (R44). -/
def wordBytes (w : Word) : List Byte := [w.extractLsb' 0 8, w.extractLsb' 8 8]

/-- Byte `a` of `RXBUF`. -/
def rx (s : State) (a : Nat) : Byte := Memory.byte s.rxbuf a

/-- `ack`, the little-endian value at 0xD (R43, R66). -/
def ackOf (s : State) : Word := rx s 0xE ++ rx s 0xD

/-- What R133 raises before a code can be compared, if anything. -/
def ackRaises (s : State) : Option Byte :=
  if s.rxLen = 0 then some 0x01 else if s.rxLen < 0xF then some 0x02 else none

/-- The RES string of `DEC.INFO` (R135). -/
def infoRes (s : State) : List Byte :=
  match ackRaises s with
  | some st => [st]
  | none =>
    if ackOf s ≠ 0x0282 then [0x02]
    else if s.rxLen < 0x19 then [0x03]
    else 0x00 :: (List.range 10).map fun i => rx s (0xF + i)

/-- The RES string of an SPI-read judgement (R138, R139), given whether the response is long enough for the echo, and matches. -/
def spirRes (s : State) (len : Word) (need : Nat) (good : Bool) : List Byte :=
  if s.rxLen = 0 then [0x01]
  else if s.rxLen < need then [0x02]
  else if !good then [0x02]
  else if 0x14 + len.toNat ≤ s.rxLen then 0x00 :: (List.range len.toNat).map fun i => rx s (0x14 + i)
  else 0x03 :: List.replicate len.toNat 0

/-- `s` with this string on the RES port, and nothing else changed. -/
def answers (s : State) (bytes : List Byte) : State := { s with res := bytes }

/-- The six sample bytes of a report as four values of two bytes (R155). -/
def sampleBytes (b6 b7 b8 b9 b10 b11 : Byte) : List Byte :=
  [b6, b7 &&& 0xF, (b7 >>> 4) ||| (b8 <<< 4), b8 >>> 4, b9, b10 &&& 0xF, (b10 >>> 4) ||| (b11 <<< 4), b11 >>> 4]

/-- The lengths R73 gives, and no others. -/
def lawfulTransaction (ct : List Byte) : Prop :=
  match ct with
  | [] => False
  | op :: xs =>
    let byte := fun k => (xs.getD k 0).toNat
    (op ∈ [0x10, 0x12, 0x20, 0x41, 0x43, 0x52] ∧ ct.length = 1) ∨
    (op ∈ [0x11, 0x30] ∧ ct.length = 2) ∨
    (op ∈ [0x31, 0x42] ∧ ct.length = 3) ∨
    (op ∈ [0x13, 0x40] ∧ 3 ≤ ct.length ∧ ct.length = 3 + (byte 0 + 256 * byte 1)) ∨
    (op = 0x51 ∧ ct.length = 4) ∨
    (op = 0x50 ∧ ct.length = 5) ∨
    (op = 0x44 ∧ ct.length = 7) ∨
    (op = 0x32 ∧ ct.length = 8) ∨
    (op = 0x33 ∧ 8 ≤ ct.length ∧ ct.length = 8 + (byte 5 + 256 * byte 6)) ∨
    (op = 0x60 ∧ ct.length = 17)

/-- A calibration triple that `NORM` accepts (R162). -/
def goodTriple (min c max : Word) : Prop := min.toNat ≤ c.toNat ∧ c.toNat ≤ max.toNat ∧ max.toNat ≤ 0xFFF

/-- The clamped sample of R163, on the mathematical integers. -/
def clamped (raw lo hi : Word) : Int := Max.max (lo.toNat : Int) (Min.min (raw.toNat : Int) hi.toNat)

/-- The clamped sample selects a zero divisor (R164): it equals `center = max`. -/
def zeroDivisor (raw lo c hi : Word) : Prop := c = hi ∧ clamped raw lo hi = c.toNat

/-- The fraction of R163 and R164, on the mathematical integers. -/
def fraction (raw lo c hi : Word) : F32 :=
  let r := clamped raw lo hi
  let num := Binary32.i2f (r - c.toNat)
  if (c.toNat : Int) ≤ r then Binary32.div num (Binary32.i2f ((hi.toNat : Int) - c.toNat))
  else Binary32.div num (Binary32.i2f ((c.toNat : Int) - lo.toNat))

/-- The rescaled lane of R167, with `legalRange` the 0.75 of R168. -/
def rescaled (f m : F32) : F32 :=
  let q := Binary32.div (Binary32.sub m 0x3E19999A) 0x3F400000
  let normalizedMag := if Binary32.le 0x3F800000 q then 0x3F800000 else q
  Binary32.mul f (Binary32.div normalizedMag m)

/-- The magnitude of R165. -/
def norm2 (xf yf : F32) : F32 := Binary32.sqrt (Binary32.add (Binary32.mul xf xf) (Binary32.mul yf yf))

/-- The two lanes of R166 and R167. -/
def lanes (xf yf : F32) : F32 × F32 :=
  let m := norm2 xf yf
  if Binary32.le m 0x3E19999A then (0x00000000, 0x00000000) else (rescaled xf m, rescaled yf m)

/-- The four bytes of a binary32 pattern, low byte first (R44). -/
def f32Bytes (x : F32) : List Byte :=
  [x.extractLsb' 0 8, x.extractLsb' 8 8, x.extractLsb' 16 8, x.extractLsb' 24 8]

/-- The addresses of the four ranges of R47. -/
def mapped (a : Nat) : Prop :=
  (0x603D ≤ a ∧ a < 0x604F) ∨ (0x6089 ≤ a ∧ a < 0x608C) ∨ (0x609B ≤ a ∧ a < 0x609E)

/-- The block's own state (R36) is as it was. -/
def BlockSame (s t : State) : Prop :=
  t.seq = s.seq ∧ t.crc = s.crc ∧ t.rxLen = s.rxLen ∧ t.txbuf = s.txbuf ∧ t.rxbuf = s.rxbuf

/-- A response of these bytes has been loaded (R131): `rx_len`, `RXBUF`, `OK` on the RES port, and nothing else but the host's part
(said apart). -/
structure Loaded (s t : State) (bytes : List Byte) : Prop where
  len : t.rxLen = bytes.length
  rx : ∀ a, Claims.rx t a = bytes.getD a 0
  res : t.res = [0x00]
  frame : t.seq = s.seq ∧ t.crc = s.crc ∧ t.txbuf = s.txbuf ∧ t.transport = s.transport ∧ t.device = s.device

/-- The request is to write `FLASH`. -/
def isSpiWrite : Request → Bool
  | .spiWrite _ _ => true
  | _ => false

/-- The latest send of an exchange has failed in full (R184, R185). -/
abbrev sendFailed (s : State) (e : Exchange) : Prop :=
  e.failed = true ∨ 8 ≤ e.reads ∨ isSpiWrite e.request = true ∧ 0 < e.reads ∧ s.rxLen = 0

/-- All 20 sends of an exchange have failed (R184, R185). -/
abbrev exhausted (s : State) (e : Exchange) : Prop := sendFailed s e ∧ 20 ≤ e.failedSends + 1

/-- A frame that asks for `r` may follow an exchange without success (R51, R249): after a failure of the transport (R127, D31, U14), or
after a read that has waited for the answer, if it asks for the same again, if the retries are exhausted, or if the request is an SPI read
or sets the mode, for which the count is open (R186, N9; log 34). -/
def mayFollow (s : State) (e : Exchange) (r : Request) : Prop :=
  e.failed = true ∨ 0 < e.reads ∧
    (e.request = r ∨ exhausted s e ∨ (∃ offset size, e.request = .spiRead offset size) ∨ ∃ mode, e.request = .mode mode)

/-- A frame that asks for this would be a second one outstanding (R51, R249). -/
def outstanding (s : State) (r : Request) : Prop := ∃ e, s.host.exchange = some e ∧ ¬ mayFollow s e r

/-- The exchange after a frame that asks for this (log 34): a re-send counts a send that has failed in full. -/
def exchangeAfter (s : State) (r : Request) (complete : Bool) : Exchange :=
  match s.host.exchange with
  | some e =>
    if e.request = r ∧ ¬ exhausted s e then ⟨r, if sendFailed s e then e.failedSends + 1 else e.failedSends, 0, !complete⟩
    else ⟨r, 0, 0, !complete⟩
  | none => ⟨r, 0, 0, !complete⟩

/-- The exchange has been resolved, if there is one that `p` holds of, and is else as it was. -/
def Resolved (p : Exchange → Prop) (x x' : Option Exchange) : Prop :=
  (∀ e, x = some e → p e → x' = none) ∧ ((∀ e, x = some e → ¬ p e) → x' = x)

/-- The settle delay is owed, or the write has no data or a byte outside the flash map: the spec states no outcome on `FLASH` (R251, U19,
R47). -/
def noStatedOutcome (s : State) (offset : Offset) (data : List Byte) : Prop :=
  s.host.settleOwed = true ∨ data = [] ∨ ∃ i, i < data.length ∧ ¬ mapped (offset.toNat + i)

/-- What a frame of the table asks for (R69). -/
def asks : Instr → Option Request
  | .frameInfo _ _ => some .info
  | .frameMode _ _ mode => some (.mode mode)
  | .frameSpir _ _ offset size => some (.spiRead offset size)
  | .frameSpiw _ _ offset data => some (.spiWrite offset data)
  | _ => none

/-- In the view of a response that what was asked chooses (R61, C1; log 35), the bytes 0xD and 0xE are the code of this row: not after
a set-mode frame (R70), and after an SPI-read frame only as the code of the serial number (R189). -/
def carriesCode : Option Request → Instr → Prop
  | some (.mode _), _ => False
  | some (.spiRead _ _), i => ∃ head rest, i = .respSerial head rest
  | _, _ => True

/-- `i`, which has ended in `t`, is the decode operation that judges the answer to what was asked, and it has ended with success
(R184 to R186, R189; log 34). -/
def concludes : Request → Instr → State → Prop
  | .info, i, t => (i = .decInfo ∨ i = .decMatch 0x0282) ∧ t.status = 0x00
  | .spiWrite _ _, i, t => i = .decMatch 0x1180 ∧ t.status = 0x00
  | .spiRead offset size, i, t =>
    i = .decMatch 0x1090 ∧ t.status = 0x00 ∨ i = .decSpir offset size ∧ (t.status = 0x00 ∨ t.status = 0x03)
  | .mode _, i, t => i = .decAck ∧ t.status = 0x00 ∧ Config.modeAnswer (ackOf t) = true

/-- What the frame of a query asks for (R184, R189). -/
def queryAsks : Query → Request
  | .info => .info
  | .serial offset size => .spiRead offset size

/-- The frame of a query sent in `s` (R122, R124, R184, R189). -/
def queryFrame (s : State) (cmd : Byte) : Query → List Byte
  | .info => header s cmd 0x02 ++ List.replicate 46 0
  | .serial offset size => header s cmd 0x10 ++ offsetBytes offset ++ wordBytes size ++ List.replicate 40 0

/-- The RES string of the judgement of a query (R184, R189): that of `DEC.INFO`, or of `DEC.MATCH 0x1090`. -/
def queryRes (s : State) : Query → List Byte
  | .info => infoRes s
  | .serial _ _ =>
    match ackRaises s with
    | some st => [st]
    | none => if ackOf s = 0x1090 then [0x00] else [0x02]

/-- The host after a judgement of a bounded policy without success (R184, R185), `x` its exchange once its own is resolved: another read
if the inner loop goes on, else another exchange, else the end. -/
def retried (task : Progress → Task) (p : Progress) (inner : Prop) [Decidable inner] (rest : List Task) (x : Option Exchange)
    (h : HostState) : HostState :=
  if inner ∧ p.reads + 1 < 8 then { h with agenda := task ⟨p.sends, p.reads + 1, .read⟩ :: rest }
  else if p.sends + 1 < 20 then { h with agenda := task ⟨p.sends + 1, 0, .send⟩ :: rest }
  else { h with agenda := rest, result := .done .retryBudgetExhausted [], exchange := x }

/-- The binary32 value nearest to the exact number `num / den`, both in units of 2^-149, where another lies as near the even one (R10):
it is finite, and no finite value lies nearer. -/
def IsNearest (num : Int) (den : Nat) (r : F32) : Prop :=
  Binary32.isFinite r = true ∧ ∀ y : F32, Binary32.isFinite y = true →
    let far := fun v : Int => (v * den - num).natAbs
    far (Binary32.value r) ≤ far (Binary32.value y) ∧
    (far (Binary32.value r) = far (Binary32.value y) → Binary32.value y ≠ Binary32.value r → r.toNat % 2 = 0)

/-- The exact number `num / den` in units of 2^-149 lies below the bound from which `RN` gives no finite value. -/
def representable (num : Int) (den : Nat) : Prop := num.natAbs < (2 ^ 25 - 1) * 2 ^ 103 * 2 ^ 149 * den

/-- With the transport answering so, a bounded policy makes 20 exchanges of `moves` moves and `reads` read attempts each, and then ends
with `RetryBudgetExhausted` (R184, R185): before each exchange it stands at its start, one frame and `reads` reads of each exchange
before used up and `seq` advanced once for each; one move before the end it is still there. -/
def givesUp (task : Progress → Task) (moves reads : Nat) (s : State) : Prop :=
  (∀ k, k < 20 → ∃ t, Host.Core.run core (moves * k) s = .next t ∧ t.host.agenda = [task ⟨k, 0, .send⟩] ∧
    t.host.result = s.host.result ∧ t.seq = s.seq + BitVec.ofNat 4 k ∧
    t.transport.writes.length = 20 - k ∧ t.transport.reads.length = reads * (20 - k)) ∧
  (∃ t p, Host.Core.run core (moves * 20 - 1) s = .next t ∧ t.host.agenda = [task p] ∧ t.host.result = s.host.result) ∧
  ∃ t, Host.Core.run core (moves * 20) s = .next t ∧ t.host.agenda = [] ∧
    t.host.result = .done .retryBudgetExhausted [] ∧ t.seq = s.seq + 4 ∧ t.transport = ⟨[], []⟩

/-- The next move of the task is a call of the transport (R180): of the procedures, one that is at its `write` or at a read that its
bound allows. -/
def callsTransport : Task → Prop
  | .write => True
  | .read _ => True
  | .query _ _ p => p.point = .write ∨ p.point = .read
  | .writeSpi _ _ _ _ p => p.point = .write ∨ p.point = .read
  | .readSpi _ _ _ bound p => p.point = .write ∨ p.point = .read ∧ ∀ n, bound = some n → p.reads < n
  | .capture _ _ point => point = .write ∨ point = .answer ∨ point = .read
  | _ => False

/-- One of the two sticks. -/
inductive Side where
  | left
  | right
  deriving DecidableEq, Repr

/-- The controller has this stick (R194). -/
def Side.present : Side → Kind → Prop
  | .left, k => k ≠ .rightOnly
  | .right, k => k ≠ .leftOnly

/-- The x and y accumulators of a stick (R32). -/
def Side.tracks : Side → Capture → Track × Track
  | .left, c => (c.lx, c.ly)
  | .right, c => (c.rx, c.ry)

/-- What has been found for a stick. -/
def Side.result : Side → Capture → StickResult
  | .left, c => c.left
  | .right, c => c.right

/-- The x and y samples of a stick (R155). -/
def Side.sample : Side → Sample → Word × Word
  | .left, v => (v.lx, v.ly)
  | .right, v => (v.rx, v.ry)

/-- The running minimum and maximum after one more value (R202). -/
def tracked (t : Track) (v : Word) : Track := ⟨if v < t.lo then v else t.lo, if t.hi < v then v else t.hi⟩

/-- A sample is tracked (R201, R202): for each stick the controller has, on both axes; nothing else of the capture changes. -/
def Tracked (k : Kind) (v : Sample) (c d : Capture) : Prop :=
  d.phase = c.phase ∧ ∀ side : Side, side.result d = side.result c ∧
    (side.present k → side.tracks d =
      (tracked (side.tracks c).1 (side.sample v).1, tracked (side.tracks c).2 (side.sample v).2)) ∧
    (¬ side.present k → side.tracks d = side.tracks c)

/-- Both accumulators of a stick hold a sample of this phase. -/
def sampled (side : Side) (c : Capture) : Prop := (side.tracks c).1 ≠ ⟨0xFFF, 0⟩ ∧ (side.tracks c).2 ≠ ⟨0xFFF, 0⟩

/-- The results of phase 1 for one stick (R205, R206, R209), from its accumulators. -/
def centered (x y : Track) (padInner : Nat) (r : StickResult) : Prop :=
  r.xcenter.toNat = (x.lo.toNat + x.hi.toNat) / 2 ∧ r.ycenter.toNat = (y.lo.toNat + y.hi.toNat) / 2 ∧
  r.deadzone.toNat = min (max ((x.hi.toNat - x.lo.toNat) / 2) ((y.hi.toNat - y.lo.toNat) / 2) + padInner) 0xFFF

/-- The results of phase 2 for one stick (R208, R210), from its accumulators; a range ratio below 0 has no stated value (log 17), and
the fixed constant stands for it on the kinds of controller it was given for (log 33). -/
def bounded (x y : Track) (params : CaptureParams) (k : Kind) (r : StickResult) : Prop :=
  r.xmin.toNat = min (x.lo.toNat + params.padOuter) 0xFFF ∧ r.xmax.toNat = x.hi.toNat - params.padOuter ∧
  r.ymin.toNat = min (y.lo.toNat + params.padOuter) 0xFFF ∧ r.ymax.toNat = y.hi.toNat - params.padOuter ∧
  (k ∉ params.rrKinds → min r.xmin.toNat r.ymin.toNat ≤ max r.xmax.toNat r.ymax.toNat →
    r.rangeRatio.toNat = max r.xmax.toNat r.ymax.toNat - min r.xmin.toNat r.ymin.toNat) ∧
  (k ∈ params.rrKinds → r.rangeRatio.toNat = params.rrConst.toNat)

end Sys2Proof.Claims

open Sys2Proof
open Sys2Proof.Machine

/-! ### CRC8 unit -/

/-- R101: every entry of `CRCROM` is the derived one; the entries are pairwise different and the table is linear over GF(2). The
table's contents are the spec's own derivation (D19). -/
def Obligations.CrcRomIsThePolynomialTable : Prop :=
  (∀ i, crcRom i = Claims.crcEntry i) ∧ (∀ i j, crcRom i = crcRom j → i = j) ∧
    (∀ i j, crcRom (i ^^^ j) = crcRom i ^^^ crcRom j) ∧
    crcRom 0x00 = 0x00 ∧ crcRom 0x01 = 0x07 ∧ crcRom 0x80 = 0x89 ∧ crcRom 0xFF = 0xF3

/-- R103, with its corner case: feeding the running value back gives 0. -/
def Obligations.CrcUpdFeedsOneByte : Prop :=
  ∀ b s, decode .cmd [0x11, b] = some (.crc8Upd b) ∧
    exec (.crc8Upd b) s = .next { s with crc := crcRom (s.crc ^^^ b), res := [0x00, crcRom (s.crc ^^^ b)] } ∧
    (b = s.crc → crcRom (s.crc ^^^ b) = 0x00)

/-- R105, with `crc8` as the fold of R100. -/
def Obligations.CrcBufIsCrc8OfTheBytes : Prop :=
  ∀ n0 n1 bytes s, bytes.length = n0.toNat + 256 * n1.toNat →
    decode .cmd (0x13 :: n0 :: n1 :: bytes) = some (.crc8Buf bytes) ∧
    exec (.crc8Buf bytes) s =
      let c := bytes.foldl (fun c b => crcRom (c ^^^ b)) 0x00
      .next { s with crc := c, res := [0x00, c] }

/-- R106, the equivalence: `CRC8.BUF` is `CRC8.INIT` and then one `CRC8.UPD` a byte. The spec marks the equivalence as derived. -/
def Obligations.CrcBufEqualsInitThenUpds : Prop :=
  ∀ bytes s, ∃ t u, Claims.execAll (.crc8Init :: bytes.map .crc8Upd) s = .next t ∧
    exec (.crc8Buf bytes) s = .next u ∧ t.crc = u.crc ∧ (bytes ≠ [] → t = u)

/-- R103, R106: a message followed by its own checksum has checksum 0. -/
def Obligations.MessageWithItsChecksumGivesZero : Prop :=
  ∀ bytes s, ∃ t u, exec (.crc8Buf bytes) s = .next t ∧ exec (.crc8Buf (bytes ++ [t.crc])) s = .next u ∧ u.crc = 0x00

/-! ### Sequence counter -/

/-- R102, R104, R111: `CRC8.INIT` clears `crc`, `SEQ.RST` clears `seq`, `CRC8.GET` returns `crc`; each changes nothing else. The
operations are the spec's own choice (D1, D19). -/
def Obligations.RegisterOperationsClearAndRead : Prop :=
  (decode .cmd [0x10] = some .crc8Init ∧ ∀ s, exec .crc8Init s = .next { s with crc := 0x00, res := [0x00] }) ∧
  (decode .cmd [0x12] = some .crc8Get ∧ ∀ s, exec .crc8Get s = .next (Claims.answers s [0x00, s.crc])) ∧
  (decode .cmd [0x20] = some .seqRst ∧ ∀ s, exec .seqRst s = .next { s with seq := 0, res := [0x00] })

/-- R112: an encode operation that ends with `OK` stamps `seq` as it was into byte 1 and advances it; one that raises a status does
neither. That the value stamped is the one before the increment is the spec's own choice (D3). -/
def Obligations.EncodeStampsThenAdvances : Prop :=
  ∀ i s, Claims.isEncode i = true → ∃ t, exec i s = .next t ∧
    (t.status = 0x00 → Memory.byte t.txbuf 1 = s.seq.setWidth 8 ∧ t.seq = s.seq + 1) ∧
    (t.status ≠ 0x00 → t = Claims.answers s t.res)

/-- R113: after `k` successful encode operations since `seq` was 0, `seq` is `k` modulo 16. The spec marks the count as derived. -/
def Obligations.SeqCountsFramesModulo16 : Prop :=
  ∀ is s, s.seq = 0 → (∀ i ∈ is, Claims.isEncode i = true ∧ ∀ c o d, i = .encSpiw c o d → d.length ≤ 29) →
    ∃ t, Claims.execAll is s = .next t ∧ t.seq.toNat = is.length % 16

/-! ### Frame encoder -/

/-- R122. -/
def Obligations.EncInfoBuildsItsFrame : Prop :=
  ∀ cmd s, decode .cmd [0x30, cmd] = some (.encInfo cmd) ∧
    ∃ t, exec (.encInfo cmd) s = .next t ∧ Claims.Sent s t (Claims.header s cmd 0x02 ++ List.replicate 46 0)

/-- R123. -/
def Obligations.EncModeBuildsItsFrame : Prop :=
  ∀ cmd mode s, decode .cmd [0x31, cmd, mode] = some (.encMode cmd mode) ∧
    ∃ t, exec (.encMode cmd mode) s = .next t ∧
      Claims.Sent s t (Claims.header s cmd 0x03 ++ [mode] ++ List.replicate 45 0)

/-- R124: `offset` and `size` little-endian in the transaction and in the frame. The byte order is the spec's own choice (D5). -/
def Obligations.EncSpirBuildsItsFrame : Prop :=
  ∀ cmd o0 o1 o2 o3 z0 z1 s,
    decode .cmd [0x32, cmd, o0, o1, o2, o3, z0, z1] = some (.encSpir cmd (o3 ++ o2 ++ o1 ++ o0) (z1 ++ z0)) ∧
    ∃ t, exec (.encSpir cmd (o3 ++ o2 ++ o1 ++ o0) (z1 ++ z0)) s = .next t ∧
      Claims.Sent s t (Claims.header s cmd 0x10 ++ [o0, o1, o2, o3, z0, z1] ++ List.replicate 40 0)

/-- R125: up to 29 data bytes are built in from byte 16 on; more are refused and nothing is built. The size field and the refusal
are the spec's own choice (D6). -/
def Obligations.EncSpiwBuildsItsFrameOrRefuses : Prop :=
  ∀ cmd o0 o1 o2 o3 n0 n1 data s, data.length = n0.toNat + 256 * n1.toNat →
    decode .cmd (0x33 :: cmd :: o0 :: o1 :: o2 :: o3 :: n0 :: n1 :: data) = some (.encSpiw cmd (o3 ++ o2 ++ o1 ++ o0) data) ∧
    (data.length ≤ 29 → ∃ t, exec (.encSpiw cmd (o3 ++ o2 ++ o1 ++ o0) data) s = .next t ∧
      Claims.Sent s t (Claims.header s cmd 0x11 ++ [o0, o1, o2, o3, n0, n1] ++ List.replicate 7 0 ++ data ++
        List.replicate (33 - data.length) 0)) ∧
    (29 < data.length → exec (.encSpiw cmd (o3 ++ o2 ++ o1 ++ o0) data) s = .next (Claims.answers s [0x11]))

/-- R60, R83: what an encode operation leaves in `TXBUF` is the command frame of the table's row for it. -/
def Obligations.BuiltFramesAreRowsOfTheTable : Prop :=
  (∀ cmd s, ∃ t, exec (.encInfo cmd) s = .next t ∧ decode .tx t.txBytes = some (.frameInfo cmd s.seq)) ∧
  (∀ cmd mode s, ∃ t, exec (.encMode cmd mode) s = .next t ∧ decode .tx t.txBytes = some (.frameMode cmd s.seq mode)) ∧
  (∀ cmd offset size s, ∃ t, exec (.encSpir cmd offset size) s = .next t ∧
    decode .tx t.txBytes = some (.frameSpir cmd s.seq offset size)) ∧
  (∀ cmd offset data s, data.length ≤ 29 → ∃ t, exec (.encSpiw cmd offset data) s = .next t ∧
    decode .tx t.txBytes = some (.frameSpiw cmd s.seq offset data))

/-! ### Frame decoder -/

/-- R131: a response of at most 0x170 bytes is loaded, zeros after it; a longer one is refused and nothing changes. The zeros and
the refusal are the spec's own choice (D8). -/
def Obligations.RxLoadFillsRxbufOrRefuses : Prop :=
  ∀ n0 n1 bytes s, bytes.length = n0.toNat + 256 * n1.toNat →
    decode .cmd (0x40 :: n0 :: n1 :: bytes) = some (.rxLoad bytes) ∧
    (bytes.length ≤ 0x170 → ∃ t, exec (.rxLoad bytes) s = .next t ∧ Claims.Loaded s t bytes ∧ t.host = s.host) ∧
    (0x170 < bytes.length → exec (.rxLoad bytes) s = .next (Claims.answers s [0x11]))

/-- R133. The statuses of a short response are the spec's own choice (D10). -/
def Obligations.DecAckReadsTheCode : Prop :=
  decode .cmd [0x41] = some .decAck ∧
  ∀ s, exec .decAck s = .next (Claims.answers s (
    match Claims.ackRaises s with
    | some st => [st]
    | none => [0x00, Claims.rx s 0xD, Claims.rx s 0xE]))

/-- R134. -/
def Obligations.DecMatchComparesTheCode : Prop :=
  ∀ e0 e1 s, decode .cmd [0x42, e0, e1] = some (.decMatch (e1 ++ e0)) ∧
    exec (.decMatch (e1 ++ e0)) s = .next (Claims.answers s (
      match Claims.ackRaises s with
      | some st => [st]
      | none => if Claims.ackOf s = e1 ++ e0 then [0x00] else [0x02]))

/-- R135. The length test is the spec's own choice (D26). -/
def Obligations.DecInfoReturnsThePayload : Prop :=
  decode .cmd [0x43] = some .decInfo ∧ ∀ s, exec .decInfo s = .next (Claims.answers s (Claims.infoRes s))

/-- R138, with the match of R137 under `ECHO_DOC`, the default layout of R136. The echo layout and the short read are the spec's own
choice (D9, D11; log 4). -/
def Obligations.DecSpirReturnsThePayload : Prop :=
  ∀ o0 o1 o2 o3 l0 l1 s,
    decode .cmd [0x44, o0, o1, o2, o3, l0, l1] = some (.decSpir (o3 ++ o2 ++ o1 ++ o0) (l1 ++ l0)) ∧
    exec (.decSpir (o3 ++ o2 ++ o1 ++ o0) (l1 ++ l0)) s = .next (Claims.answers s (
      Claims.spirRes s (l1 ++ l0) 0x11
        (Claims.rx s 0xD == o0 && Claims.rx s 0xE == o1 && Claims.rx s 0xF == l0 && Claims.rx s 0x10 == l1)))

/-- R136, R137 for the second instance `ECHO_ALT`: code 0x1090 at 0xD, the whole offset at 0xF, the low byte of the size at 0x13.
ECHO_ALT is from general knowledge, as the spec says, and not this block's layout (log 4). -/
def Obligations.EchoAltTestsCodeOffsetAndSize : Prop :=
  ∀ offset len s, decSpirWith Config.echoAlt offset len s = .next (Claims.answers s (
    Claims.spirRes s len 0x14
      (Claims.ackOf s == 0x1090 &&
        (Claims.rx s 0x12 ++ Claims.rx s 0x11 ++ Claims.rx s 0x10 ++ Claims.rx s 0xF == offset) &&
        Claims.rx s 0x13 == len.extractLsb' 0 8)))

/-- R56, R130, R132: what a decode operation answers depends on its operands, `rx_len` and the bytes below `rx_len` alone: not on
`seq`, on the bytes past `rx_len` or on anything else of the state. -/
def Obligations.DecodersDependOnTheResponseAlone : Prop :=
  ∀ i s s', Claims.readsResponse i = true → s.rxLen = s'.rxLen → (∀ a, a < s.rxLen → Claims.rx s a = Claims.rx s' a) →
    ∃ t t', exec i s = .next t ∧ exec i s' = .next t' ∧ t.res = t'.res

/-- R29, R130, R213: an operation that writes nothing leaves the whole state but the RES port as it was. The spec marks the list as
derived. -/
def Obligations.PureOperationsChangeOnlyTheResponse : Prop :=
  ∀ i s, Claims.writesNothing i = true → ∃ r, exec i s = .next (Claims.answers s r)

/-! ### Triplet packer -/

/-- R152. The refusal is the spec's own choice (D15). -/
def Obligations.TriPackPacksOrRefuses : Prop :=
  ∀ a0 a1 b0 b1 s, decode .cmd [0x50, a0, a1, b0, b1] = some (.triPack (a1 ++ a0) (b1 ++ b0)) ∧
    exec (.triPack (a1 ++ a0) (b1 ++ b0)) s = .next (Claims.answers s (
      if a1.toNat < 16 ∧ b1.toNat < 16 then [0x00, a0, (b0 <<< 4) ||| a1, (b0 >>> 4) ||| (b1 <<< 4)] else [0x11]))

/-- R153. -/
def Obligations.TriUnpkUnpacks : Prop :=
  ∀ t0 t1 t2 s, decode .cmd [0x51, t0, t1, t2] = some (.triUnpk t0 t1 t2) ∧
    exec (.triUnpk t0 t1 t2) s = .next (Claims.answers s (
      [0x00, t0, t1 &&& 0xF, (t1 >>> 4) ||| (t2 <<< 4), t2 >>> 4]))

/-- R154: packing and unpacking are inverse to each other, on all legal pairs and on all byte triples. The spec marks the converse
as derived. -/
def Obligations.TripletRoundTrip : Prop :=
  (∀ a b : Word, ∀ s, a.toNat ≤ 0xFFF → b.toNat ≤ 0xFFF → ∃ t0 t1 t2,
    exec (.triPack a b) s = .next (Claims.answers s [0x00, t0, t1, t2]) ∧
    exec (.triUnpk t0 t1 t2) s = .next (Claims.answers s (0x00 :: (Claims.wordBytes a ++ Claims.wordBytes b)))) ∧
  (∀ t0 t1 t2 s, ∃ a b : Word, a.toNat ≤ 0xFFF ∧ b.toNat ≤ 0xFFF ∧
    exec (.triUnpk t0 t1 t2) s = .next (Claims.answers s (0x00 :: (Claims.wordBytes a ++ Claims.wordBytes b))) ∧
    exec (.triPack a b) s = .next (Claims.answers s [0x00, t0, t1, t2]))

/-- R155. The length test is the spec's own choice (D27). -/
def Obligations.SmpUnpkReturnsTheSamples : Prop :=
  decode .cmd [0x52] = some .smpUnpk ∧
  ∀ s, exec .smpUnpk s = .next (Claims.answers s (
    if s.rxLen = 0 then [0x01]
    else if s.rxLen ≤ 12 then [0x03]
    else 0x00 :: Claims.sampleBytes (Claims.rx s 6) (Claims.rx s 7) (Claims.rx s 8) (Claims.rx s 9) (Claims.rx s 10)
      (Claims.rx s 11)))

/-! ### Stick normalizer -/

/-- R162, R228: a calibration triple that breaks the invariant, or a zero divisor, is refused, whatever the sample. The refusal is
the spec's own choice (D14). -/
def Obligations.NormRefusesACalibration : Prop :=
  ∀ rawX rawY xmin xc xmax ymin yc ymax s,
    ¬ (Claims.goodTriple xmin xc xmax ∧ Claims.goodTriple ymin yc ymax) ∨
      Claims.zeroDivisor rawX xmin xc xmax ∨ Claims.zeroDivisor rawY ymin yc ymax →
    exec (.norm rawX rawY xmin xc xmax ymin yc ymax) s = .next (Claims.answers s [0x12])

/-- R161, with the stages of R163 to R167: everything else completes with the two lanes as binary32 patterns. The arithmetic and the
divisor at center are the spec's own choice (D12, D13). -/
def Obligations.NormComputesThePipeline : Prop :=
  ∀ rawX rawY xmin xc xmax ymin yc ymax s, Claims.goodTriple xmin xc xmax → Claims.goodTriple ymin yc ymax →
    ¬ Claims.zeroDivisor rawX xmin xc xmax → ¬ Claims.zeroDivisor rawY ymin yc ymax →
    exec (.norm rawX rawY xmin xc xmax ymin yc ymax) s = .next (Claims.answers s (
      let o := Claims.lanes (Claims.fraction rawX xmin xc xmax) (Claims.fraction rawY ymin yc ymax)
      0x00 :: (Claims.f32Bytes o.1 ++ Claims.f32Bytes o.2)))

/-- R170: a sample at center on both axes gives `(+0.0, +0.0)`. The spec marks this corner case as derived. -/
def Obligations.NormCenterGivesZero : Prop :=
  ∀ xmin xc xmax ymin yc ymax s, Claims.goodTriple xmin xc xmax → Claims.goodTriple ymin yc ymax →
    xc.toNat < xmax.toNat → yc.toNat < ymax.toNat →
    exec (.norm xc yc xmin xc xmax ymin yc ymax) s = .next (Claims.answers s (0x00 :: List.replicate 8 0))

/-- R170: a sample at or beyond a bound of one axis, at center on the other, gives 1.0 or -1.0 there and `+0.0` here. The spec marks
this corner case as derived. -/
def Obligations.NormFullDeflectionGivesOne : Prop :=
  ∀ raw xmin xc xmax ymin yc ymax s, Claims.goodTriple xmin xc xmax → Claims.goodTriple ymin yc ymax →
    yc.toNat < ymax.toNat →
    (xc.toNat < xmax.toNat → xmax.toNat ≤ raw.toNat →
      exec (.norm raw yc xmin xc xmax ymin yc ymax) s =
        .next (Claims.answers s [0x00, 0x00, 0x00, 0x80, 0x3F, 0x00, 0x00, 0x00, 0x00])) ∧
    (xmin.toNat < xc.toNat → raw.toNat ≤ xmin.toNat →
      exec (.norm raw yc xmin xc xmax ymin yc ymax) s =
        .next (Claims.answers s [0x00, 0x00, 0x00, 0x80, 0xBF, 0x00, 0x00, 0x00, 0x00]))

/-- R170: swapping the X and Y operand groups swaps the outputs. The spec marks the symmetry as derived. -/
def Obligations.NormLanesAreSymmetric : Prop :=
  ∀ rawX rawY xmin xc xmax ymin yc ymax s, Claims.goodTriple xmin xc xmax → Claims.goodTriple ymin yc ymax →
    ¬ Claims.zeroDivisor rawX xmin xc xmax → ¬ Claims.zeroDivisor rawY ymin yc ymax →
    ∃ ox oy : F32,
      exec (.norm rawX rawY xmin xc xmax ymin yc ymax) s =
        .next (Claims.answers s (0x00 :: (Claims.f32Bytes ox ++ Claims.f32Bytes oy))) ∧
      exec (.norm rawY rawX ymin yc ymax xmin xc xmax) s =
        .next (Claims.answers s (0x00 :: (Claims.f32Bytes oy ++ Claims.f32Bytes ox)))

/-- R10: an integer of magnitude below 2^24 converts exactly (a binary32 value is counted in units of 2^-149). -/
def Obligations.SmallIntegersConvertExactly : Prop :=
  ∀ n : Int, n.natAbs < 2 ^ 24 →
    Binary32.isFinite (Binary32.i2f n) = true ∧ Binary32.value (Binary32.i2f n) = n * 2 ^ 149

/-- R10, R169: `RN`. The rounded value is finite below the overflow bound, has the sign asked for, and no finite binary32 value lies
nearer to the exact number; where another lies as near, the rounded one is even. Binary32 and its rounding are the spec's own choice
(D12; log 5). -/
def Obligations.RoundingIsToNearestTiesToEven : Prop :=
  ∀ (neg : Bool) (num den : Nat), 0 < den → num < (2 ^ 25 - 1) * 2 ^ 103 * den →
    Binary32.isFinite (Binary32.round neg num den) = true ∧
    Binary32.isNeg (Binary32.round neg num den) = neg ∧
    ∀ y : F32, Binary32.isFinite y = true →
      let far := fun u : Nat => ((u * den : Int) - (num * 2 ^ 149 : Int)).natAbs
      far (Binary32.units (Binary32.round neg num den)) ≤ far (Binary32.units y) ∧
      (far (Binary32.units (Binary32.round neg num den)) = far (Binary32.units y) →
        Binary32.units y ≠ Binary32.units (Binary32.round neg num den) →
        (Binary32.round neg num den).toNat % 2 = 0)

/-- R10, R169: `(+)`, `(-)`, `(*)`, `(/)` are `RN` of the exact sum, difference, product and quotient of two finite values, below the
overflow bound and with a divisor that is not zero; a product and a quotient have the sign of the rule of signs, and a zero sum a minus
sign only if both addends have one (of a difference, the first operand and the second one turned). Binary32 and its rounding are the
spec's own choice (D12; log 5). -/
def Obligations.ArithmeticIsCorrectlyRounded : Prop :=
  ∀ x y : F32, Binary32.isFinite x = true → Binary32.isFinite y = true →
    let vx := Binary32.value x
    let vy := Binary32.value y
    let quotient := vx * 2 ^ 149 * vy.sign
    (Claims.representable (vx + vy) 1 → Claims.IsNearest (vx + vy) 1 (Binary32.add x y)) ∧
    (Claims.representable (vx - vy) 1 → Claims.IsNearest (vx - vy) 1 (Binary32.sub x y)) ∧
    (Claims.representable (vx * vy) (2 ^ 149) → Claims.IsNearest (vx * vy) (2 ^ 149) (Binary32.mul x y)) ∧
    (vy ≠ 0 → Claims.representable quotient vy.natAbs → Claims.IsNearest quotient vy.natAbs (Binary32.div x y)) ∧
    Binary32.isNeg (Binary32.add x y) = (if vx + vy = 0 then Binary32.isNeg x && Binary32.isNeg y else vx + vy < 0) ∧
    Binary32.isNeg (Binary32.sub x y) = (if vx - vy = 0 then Binary32.isNeg x && !Binary32.isNeg y else vx - vy < 0) ∧
    Binary32.isNeg (Binary32.mul x y) = (Binary32.isNeg x != Binary32.isNeg y) ∧
    (vy ≠ 0 → Binary32.isNeg (Binary32.div x y) = (Binary32.isNeg x != Binary32.isNeg y))

/-- R10, R169: `fsqrt` is `RN` of the exact root of a finite value that is not below 0. In units of 2^-149 the root is that of
`n = value x * 2^149`; it lies on the result's side of the middle between the result `a` and any other value `b`, or on the middle, and
then the result is even. The root of a zero keeps its sign. Binary32 and its rounding are the spec's own choice (D12; log 5). -/
def Obligations.SquareRootIsCorrectlyRounded : Prop :=
  ∀ x : F32, Binary32.isFinite x = true → 0 ≤ Binary32.value x →
    let n := Binary32.value x * 2 ^ 149
    let r := Binary32.sqrt x
    let a := Binary32.value r
    Binary32.isFinite r = true ∧ Binary32.isNeg r = Binary32.isNeg x ∧ 0 ≤ a ∧
    ∀ y : F32, Binary32.isFinite y = true →
      let b := Binary32.value y
      (a < b → 4 * n ≤ (a + b) ^ 2) ∧ (0 ≤ b → b < a → (a + b) ^ 2 ≤ 4 * n) ∧
      (0 ≤ b → a ≠ b → 4 * n = (a + b) ^ 2 → r.toNat % 2 = 0)

/-! ### Statuses -/

/-- R213, R220, R221: every operation of the block ends, with one of the statuses R213 lists for it. The spec marks the list as
derived; the codes are its own choice (D16). -/
def Obligations.OperationsEndWithTheirStatuses : Prop :=
  ∀ i s, i.port = .cmd → ∃ t, exec i s = .next t ∧ t.status ∈ Claims.statuses i

/-- R231: an operation that fails changes nothing but the RES port. The precise failure is the spec's own choice (D16). -/
def Obligations.FailingOperationsChangeNothing : Prop :=
  ∀ i s, i.port = .cmd → ∃ t, exec i s = .next t ∧
    (t.status ≠ 0x00 → t = Claims.answers s t.res ∧ Claims.BlockSame s t)

/-- R75, R226: a transaction that is no operation is answered `IllegalOp`; nothing else happens. The encoding and the status are the
spec's own choice (D1, D16). -/
def Obligations.IllegalTransactionsAreAnswered : Prop :=
  ∀ ct rest s, s.host.agenda = .issue ct :: rest → ¬ Claims.lawfulTransaction ct →
    step s = .next { s with res := [0x10], host := { s.host with agenda := rest } }

/-- R72, R73: the decoder accepts exactly the select codes and lengths of the table. The encoding is the spec's own choice (D1). -/
def Obligations.LawfulTransactionsAreTheDecodableOnes : Prop :=
  ∀ ct, (∃ i, decode .cmd ct = some i) ↔ Claims.lawfulTransaction ct

/-! ### The device's side -/

/-- Logs 6, 9, 10 (from R51, R69, R251, U19, R47): a frame that reaches the device is its latest request; a set-mode frame is also the
mode last asked for; an SPI-write frame whose outcome the spec does not state leaves `FLASH` with no known byte; nothing else changes. The
model's choice (logs 6, 9, 10). -/
def Obligations.FramesReachTheDevice : Prop :=
  ∀ cmd timer mode offset size data s,
    exec (.frameInfo cmd timer) s = .next { s with device := { s.device with request := some .info } } ∧
    exec (.frameMode cmd timer mode) s =
      .next { s with device := { s.device with request := some (.mode mode), reportMode := some mode } } ∧
    exec (.frameSpir cmd timer offset size) s =
      .next { s with device := { s.device with request := some (.spiRead offset size) } } ∧
    (Claims.noStatedOutcome s offset data →
      exec (.frameSpiw cmd timer offset data) s = .next { s with device := { s.device with
        flash := [], epoch := s.device.epoch + 1, request := some (.spiWrite offset data) } })

/-- Log 6 (from R34, R40, R46): an SPI-write frame inside the flash map, with no settle delay owed, writes its data and nothing else. The
model's choice (log 6). -/
def Obligations.SpiwFrameWritesFlash : Prop :=
  ∀ cmd timer offset data s, s.host.settleOwed = false → data ≠ [] →
    (∀ i, i < data.length → Claims.mapped (offset.toNat + i)) →
    ∃ t, exec (.frameSpiw cmd timer offset data) s = .next t ∧
      (∀ i, i < data.length → t.device.flashByte (offset.toNat + i) = data.getD i 0) ∧
      (∀ a, a < offset.toNat ∨ offset.toNat + data.length ≤ a → t.device.flashByte a = s.device.flashByte a) ∧
      t = { s with device := t.device } ∧ t.device.epoch = s.device.epoch ∧ t.device.reportMode = s.device.reportMode ∧
      t.device.request = some (.spiWrite offset data)

/-- Log 7 (from R70, R183): a response of a row of the table is loaded whole; after an SPI-write acknowledgment the settle delay is
owed (R196). The model's choice (log 7). -/
def Obligations.ResponsesAreLoaded : Prop :=
  ∀ head rest s, head.length = 0xD → 0xF + rest.length ≤ 0x170 →
    (∃ t, exec (.respInfo head rest) s = .next t ∧ Claims.Loaded s t (head ++ [0x82, 0x02] ++ rest) ∧ t.host = s.host) ∧
    (∃ t, exec (.respSpiw head rest) s = .next t ∧ Claims.Loaded s t (head ++ [0x80, 0x11] ++ rest) ∧
      t.host = { s.host with settleOwed := true }) ∧
    (∃ t, exec (.respSerial head rest) s = .next t ∧ Claims.Loaded s t (head ++ [0x90, 0x10] ++ rest) ∧ t.host = s.host)

/-! ### The step -/

/-- R71, R181: a step whose task is a transaction that decodes runs that instruction, the task taken off the agenda. If it judges, with
success, the answer to a frame whose exchange is unresolved, and a read has waited for it, that exchange is resolved (R249). From a
`DEC.MATCH 0x1180` that ends with `OK` on, the settle delay is owed (R196, R251; log 7). An encode operation that ends with `OK` has built
a fresh frame to send (R113). Nothing else is added. The agenda is the model's (log 1), and so are the notes of the exchange (log 34) and
of the frame (log 36). -/
def Obligations.StepRunsTheTransaction : Prop :=
  ∀ ct rest i s, s.host.agenda = .issue ct :: rest → decode .cmd ct = some i →
    ∃ t x, exec i { s with host := { s.host with agenda := rest } } = .next t ∧
      Claims.Resolved (fun e => 0 < e.reads ∧ Claims.concludes e.request i t) s.host.exchange x ∧
      step s = .next { t with host := { t.host with
        exchange := x, settleOwed := if i = .decMatch 0x1180 ∧ t.status = 0x00 then true else t.host.settleOwed,
        sent := if Claims.isEncode i = true ∧ t.status = 0x00 then false else t.host.sent } }

/-- R51, R113, R127, R181, R249: a step that hands `TXBUF` to the transport is refused where the frame has been handed over before, and
where it would be a second one outstanding; else it runs the frame the device takes, one answer of the transport used up, and then notes what the frame asked for and that its exchange is
unresolved; a frame that is lost only does the latter. A `TXBUF` that is no frame is refused (R244; log 14), or, if it is lost, notes
nothing. The transport's list of answers is the model's (log 11), and so are the notes, and when a frame may follow without success (logs
34, 35, 36). -/
def Obligations.StepRunsTheFrame : Prop :=
  ∀ rest s, s.host.agenda = .write :: rest → s.host.session = true →
    let host := { s.host with agenda := rest }
    let u := { s with host := host, transport := { s.transport with writes := s.transport.writes.tail } }
    let note := fun (r : Request) (t : State) =>
      Host.Outcome.next { t with host := { t.host with
        asked := some r, exchange := some (Claims.exchangeAfter s r s.nextWrite.complete), sent := true } }
    (∀ i, decode .tx s.txBytes = some i → ∃ r, Claims.asks i = some r ∧
      (s.host.sent = true → step s = .refused .frameSent) ∧
      (s.host.sent = false → Claims.outstanding s r → step s = .refused .frameOutstanding) ∧
      (s.host.sent = false → ¬ Claims.outstanding s r → step s = if s.nextWrite.taken then andThen (exec i u) (note r) else note r u)) ∧
    (decode .tx s.txBytes = none → step s = if s.nextWrite.taken then .refused .unknownFrame else .next u)

/-- R61, R183: a step that reads runs the response the transport delivers, one answer of the transport used up; a delivery that is no
row of the table in the view chosen by what was asked is loaded with `RX.LOAD`, and so are the 0 bytes of a read that timed out. The
unresolved exchange has then one read more. The transport's list of answers (log 11), the device's answer (log 24), that the block is not
told of a read that failed (log 12), the note of the exchange (log 34) and the choice of the view (log 35) are the model's. -/
def Obligations.StepRunsTheResponse : Prop :=
  ∀ ms rest s, s.host.agenda = .read ms :: rest → s.host.session = true →
    let counted := s.host.exchange.map fun e => { e with reads := e.reads + 1, failed := decide (s.nextRead = .error) }
    let host := { s.host with agenda := rest, ms := ms, exchange := counted }
    let u := { s with host := host, transport := { s.transport with reads := s.transport.reads.tail } }
    let arrives := fun bytes : List Byte =>
      (∀ i, decode .rx bytes = some i → Claims.carriesCode s.host.asked i → step s = exec i u) ∧
      ((∀ i, decode .rx bytes = some i → ¬ Claims.carriesCode s.host.asked i) → step s = exec (.rxLoad bytes) u)
    (∀ bytes, s.transport.reads.head? = some (.deliver bytes) → arrives bytes) ∧
    (∀ noise, s.transport.reads.head? = some (.answer noise) → arrives (answerFrom s.device 0 noise)) ∧
    (s.transport.reads = [] ∨ s.transport.reads.head? = some .timeout → step s = exec (.rxLoad []) u) ∧
    (s.transport.reads.head? = some .error → step s = .next u)

/-- R243, R244, R259: with nothing planned the machine is idle; opening a session issues `SEQ.RST` first and notes the handle and the
kind of controller; a `null` handle leaves no session, and with no session a call of the transport stops, alone or in a procedure. That
the kind is told by the call of `open` (log 13), the idle step (log 21), and that a new session begins with no exchange unresolved (log
34) are the model's choice. -/
def Obligations.IdleAndSessions : Prop :=
  (∀ s, s.host.agenda = [] → step s = .next s) ∧
  (∀ k rest s, s.host.agenda = .openSession (some k) :: rest →
    step s = .next { s with seq := 0, res := [0x00], host := { s.host with agenda := rest, session := true, kind := k, exchange := none } }) ∧
  (∀ rest s, s.host.agenda = .openSession none :: rest →
    step s = .next { s with host := { s.host with agenda := rest, session := false } }) ∧
  (∀ task rest s, s.host.session = false → s.host.agenda = task :: rest → Claims.callsTransport task →
    step s = .fault .noSession)

/-! ### Encoding -/

/-- R60, R61, R72: decoding an encoded well-formed instruction gives it back, with every operand. -/
def Obligations.DecodeEncode : Prop := ∀ i : Instr, i.wf = true → decode i.port (encode i) = some i

/-- R60, R61, R72, R83: what the decoder accepts is the encoding of the instruction it answers, which is well-formed and of that
port; so no two byte strings mean the same. -/
def Obligations.EncodeDecode : Prop :=
  ∀ p bytes i, decode p bytes = some i → i.port = p ∧ i.wf = true ∧ encode i = bytes

/-- Words of the spec's own examples (95_test_vectors.md P2, P3, P4; R66) decode to what they stand for. -/
def Obligations.SampleWordsDecode : Prop :=
  decode .cmd [0x32, 0x01, 0x3D, 0x60, 0x00, 0x00, 0x09, 0x00] = some (.encSpir 0x01 0x603D 9) ∧
  decode .cmd [0x33, 0x01, 0x89, 0x60, 0x00, 0x00, 0x03, 0x00, 0xAE, 0x40, 0xE1] =
    some (.encSpiw 0x01 0x6089 [0xAE, 0x40, 0xE1]) ∧
  decode .cmd [0x42, 0x80, 0x11] = some (.decMatch 0x1180) ∧
  decode .cmd [0x50, 0xAE, 0x00, 0x14, 0x0E] = some (.triPack 0x0AE 0xE14) ∧
  decode .tx ([0x01, 0x01, 0x03, 0x30] ++ List.replicate 45 0) = some (.frameMode 0x01 1 0x30) ∧
  decode .rx (List.replicate 13 0 ++ [0x80, 0x11]) = some (.respSpiw (List.replicate 13 0) [])

/-! ### Invariant and reset -/

/-- The invariant of Safety.lean (R24, R26, R27, R32, R40, R60, R184, R185, R209) is kept by every step from any state that
meets it. -/
def Obligations.StepKeepsTheInvariant : Prop := ∀ s t, s.Inv → step s = .next t → t.Inv

/-- The reset state meets the invariant. -/
def Obligations.ResetMeetsTheInvariant : Prop := State.reset.Inv

/-- R36, R240, R241, R242: the block's state after reset; a reset event puts it back and touches nothing of the host, the transport
and the device. All but seq is the spec's own choice, and so is the reset event between operations (D18; logs 26, 30). -/
def Obligations.ResetOfTheBlock : Prop :=
  (State.reset.seq = 0 ∧ State.reset.crc = 0x00 ∧ State.reset.rxLen = 0 ∧
    (∀ a, Memory.byte State.reset.txbuf a = 0x00) ∧ (∀ a, Memory.byte State.reset.rxbuf a = 0x00)) ∧
  ∀ s rest, s.host.agenda = .reset :: rest → ∃ t, step s = .next t ∧ Claims.BlockSame State.reset t ∧
    t.host = { s.host with agenda := rest } ∧ t.transport = s.transport ∧ t.device = s.device

/-! ### The host's procedures -/

/-- R184, R185 (scenarios H2 and H6 of 95_test_vectors.md): when every frame is written and every read times out, and no other frame is
outstanding at the start, `write_spi` makes 20 sends of one read each, a query 20 sends of 8 reads each; each then ends with `RetryBudgetExhausted`, and not before. That a query makes
20 exchanges in all, and that a read of zero bytes is one of its 8 attempts, are the spec's own choice (D20); the transport's lists of
answers are the model's (log 11). -/
def Obligations.BoundedPoliciesGiveUpAfterTwentySends : Prop :=
  (∀ cmd offset data taken s, data.length ≤ 29 → s.host.session = true →
    s.transport = ⟨List.replicate 20 (.done taken), List.replicate 20 .timeout⟩ →
    s.host.agenda = [.writeSpi cmd offset data [] Progress.start] →
    ¬ Claims.outstanding s (.spiWrite offset data) → Claims.givesUp (.writeSpi cmd offset data []) 4 1 s) ∧
  (∀ q cmd taken s, s.host.session = true →
    s.transport = ⟨List.replicate 20 (.done taken), List.replicate 160 .timeout⟩ →
    s.host.agenda = [.query q cmd Progress.start] →
    ¬ Claims.outstanding s (Claims.queryAsks q) → Claims.givesUp (.query q cmd) 18 8 s)

/-- R184, R189: a query sends `ENC.INFO`, or `ENC.SPIR` for the serial number; its frame is written and its answer read; its judgement
answers what `DEC.INFO`, or `DEC.MATCH 0x1090`, answers. `OK` ends it with the payload and its exchange resolved; any other status, that of
a read of zero bytes too, is followed by another read, after the 8th by another exchange, and after the 20th by `RetryBudgetExhausted`.
The counts are the spec's own choice (D20), that of the serial number's fetch the model's reading (log 22), the note of the exchange the
model's (log 34). -/
def Obligations.QueriesSendAndJudge : Prop :=
  ∀ q cmd p rest s, s.host.agenda = .query q cmd p :: rest →
    let goesTo := fun (t : State) (point : Point) =>
      t.host.agenda = .query q cmd ⟨p.sends, p.reads, point⟩ :: rest ∧ t.host.result = s.host.result
    (p.point = .send → ∃ t, step s = .next t ∧ t.txBytes = Claims.queryFrame s cmd q ∧ t.seq = s.seq + 1 ∧ goesTo t .write ∧
      t.host.sent = false) ∧
    (p.point = .write → s.host.session = true → s.nextWrite.complete = true → ∀ i r, decode .tx s.txBytes = some i →
      Claims.asks i = some r → s.host.sent = false → ¬ Claims.outstanding s r → ∃ t, step s = .next t ∧ goesTo t .read) ∧
    (p.point = .read → s.host.session = true → s.nextRead ≠ .error → ∃ t, step s = .next t ∧ goesTo t .judge) ∧
    (p.point = .judge → ∃ t x, step s = .next t ∧ t.res = Claims.queryRes s q ∧ Claims.BlockSame s t ∧
      Claims.Resolved (fun e => e.request = Claims.queryAsks q) s.host.exchange x ∧
      t.host = if (Claims.queryRes s q).head? = some 0x00 then
          { s.host with agenda := rest, result := .done .ok (Claims.queryRes s q).tail, exchange := x }
        else Claims.retried (.query q cmd) p True rest x s.host)

/-- R185, R188, R195, R196: `write_spi` sends `ENC.SPIW`; data that it refuses end it with `OperandRange`, nothing sent and an unresolved
exchange as it was. A judgement that finds the code 0x1180 in a response of at least 0xF bytes leads it to the settle delay, which is then owed, its
exchange resolved and nothing ended; without that code another read follows, after the 8th, or at once after a read of zero bytes, another
exchange, and after the 20th `RetryBudgetExhausted`. Only the task that lets the delay pass ends `write_spi` with `OK`, and then no delay
is owed; with writes of the plan left it goes on with the next of them, no delay owed, and nothing has ended. Where the delay stands is
the spec's own choice (D24); the end on refused data (log 18) and the note of the exchange (log 34) are the model's. -/
def Obligations.WriteSpiSendsJudgesAndSettles : Prop :=
  (∀ cmd plan rest s, s.host.agenda = .settle cmd plan :: rest → ∃ t, step s = .next t ∧
    t.host.settleOwed = false ∧ t.host.ms = Config.tSettle ∧ Claims.BlockSame s t ∧ t.device = s.device ∧
    match plan with
    | [] => t.host.result = .done .ok [] ∧ t.host.agenda = rest
    | .calibration offset block :: more => t.host.result = s.host.result ∧
        t.host.agenda = .writeSpi cmd offset block.bytes more Progress.start :: rest
    | .parameters offset params :: more => t.host.result = s.host.result ∧
        t.host.agenda = .packParams cmd offset params more :: rest) ∧
  (∀ cmd offset data more p rest s t, s.host.agenda = .writeSpi cmd offset data more p :: rest → step s = .next t →
    t.host.result ≠ s.host.result → ∀ bytes, t.host.result ≠ .done .ok bytes) ∧
  (∀ cmd offset data more p rest s, s.host.agenda = .writeSpi cmd offset data more p :: rest →
    (p.point = .send → data.length ≤ 29 → ∃ t, step s = .next t ∧ t.seq = s.seq + 1 ∧
      t.txBytes = Claims.header s cmd 0x11 ++ Claims.offsetBytes offset ++ [BitVec.ofNat 8 data.length, 0] ++
        List.replicate 7 0 ++ data ++ List.replicate (33 - data.length) 0 ∧
      t.host = { s.host with agenda := .writeSpi cmd offset data more ⟨p.sends, p.reads, .write⟩ :: rest, sent := false }) ∧
    (p.point = .send → 29 < data.length → step s = .next { s with
      res := [0x11], host := { s.host with agenda := rest, result := .done .operandRange [] } }) ∧
    (p.point = .judge → ∃ t x, step s = .next t ∧ Claims.BlockSame s t ∧
      Claims.Resolved (fun e => e.request = .spiWrite offset data) s.host.exchange x ∧
      t.host = if 0xF ≤ s.rxLen ∧ Claims.ackOf s = 0x1180 then
          { s.host with agenda := .settle cmd more :: rest, exchange := x, settleOwed := true }
        else Claims.retried (.writeSpi cmd offset data more) p (s.rxLen ≠ 0) rest x s.host))

/-- R186, R187, R253: an SPI read sends `ENC.SPIR`, and judges by `DEC.SPIR` of the same offset and size. A response that echoes the low
16 bits of the offset, and the size, ends it: with the payload and `OK`, or, if the payload is cut short, with zeros and `ShortRead`. Any
other, and a read that fails, keeps it on the agenda with no result, unless that was the last read its bound allows: then it ends with
`Timeout` and no re-send. An unbounded one never ends so. The echo layout, the short read, and that a resend is allowed and not required
are the spec's own choice (D9, D11, D20; logs 4, 12); where the bound is tested, and the end without a read that has nothing left to read,
are the model's (log 23). -/
def Obligations.ReadSpiReturnsOrGoesRoundAgain : Prop :=
  ∀ cmd offset len bound p rest s, s.host.agenda = .readSpi cmd offset len bound p :: rest →
    let ends := fun (t : State) (st : Status) (bytes : List Byte) =>
      t.host.agenda = rest ∧ t.host.result = .done st bytes
    let goesOn := fun (t : State) (q : Progress) =>
      t.host.agenda = .readSpi cmd offset len bound q :: rest ∧ t.host.result = s.host.result
    let failed := fun t : State =>
      (∀ n, bound = some n → n ≤ p.reads + 1 → ends t .timeout []) ∧
      ((∀ n, bound = some n → p.reads + 1 < n) →
        goesOn t ⟨p.sends, p.reads + 1, .read⟩ ∨ goesOn t ⟨p.sends + 1, p.reads + 1, .send⟩)
    let echoed := [Claims.rx s 0xD, Claims.rx s 0xE, Claims.rx s 0xF, Claims.rx s 0x10] =
      [offset.extractLsb' 0 8, offset.extractLsb' 8 8] ++ Claims.wordBytes len
    (p.point = .send → ∃ t, step s = .next t ∧ t.seq = s.seq + 1 ∧
      t.txBytes = Claims.header s cmd 0x10 ++ Claims.offsetBytes offset ++ Claims.wordBytes len ++ List.replicate 40 0 ∧
      t.host = { s.host with agenda := .readSpi cmd offset len bound ⟨p.sends, p.reads, .write⟩ :: rest, sent := false }) ∧
    (p.point = .judge → ∃ t, step s = .next t ∧ t.res = Claims.spirRes s len 0x11 echoed ∧
      (0x11 ≤ s.rxLen → echoed → 0x14 + len.toNat ≤ s.rxLen →
        ends t .ok ((List.range len.toNat).map fun i => Claims.rx s (0x14 + i))) ∧
      (0x11 ≤ s.rxLen → echoed → s.rxLen < 0x14 + len.toNat → ends t .shortRead (List.replicate len.toNat 0)) ∧
      (s.rxLen < 0x11 ∨ ¬ echoed → failed t)) ∧
    (p.point = .read → s.host.session = true → (∀ n, bound = some n → p.reads < n) → ∃ t, step s = .next t ∧
      (s.nextRead ≠ .error → goesOn t ⟨p.sends, p.reads, .judge⟩) ∧ (s.nextRead = .error → failed t)) ∧
    (p.point = .read → (∃ n, bound = some n ∧ n ≤ p.reads) → ∃ t, step s = .next t ∧ ends t .timeout [])

/-- R156, R193, R194, R195, R252: the calibration writes by controller kind, in their order, 9 bytes of calibration each; the
parameters are packed into 3 bytes, the deadzone first, and then written, or end the plan where the packer refuses them. The row of a
left-only controller is the spec's own inference, the order in the parameter block its own choice (D21), the end of the plan the
model's (log 32). -/
def Obligations.CalibrationWritesInOrder : Prop :=
  (∀ cmd rc rp lc lp rest s, s.host.agenda = .calibrate cmd rc rp lc lp :: rest →
    ∃ t offset block more, step s = .next t ∧ block.bytes.length = 9 ∧
      t.host.agenda = .writeSpi cmd offset block.bytes more Progress.start :: rest ∧
      .calibration offset block :: more = match s.host.kind with
        | .both => [.calibration 0x6046 rc, .parameters 0x609B rp, .calibration 0x603D lc, .parameters 0x6089 lp]
        | .rightOnly => [.calibration 0x6046 rc, .parameters 0x6089 rp]
        | .leftOnly => [.calibration 0x603D lc, .parameters 0x6089 lp]) ∧
  (∀ cmd offset p more rest s, s.host.agenda = .packParams cmd offset p more :: rest →
    ∃ t, step s = .next t ∧ Claims.BlockSame s t ∧
      let dz := p.deadzone
      let rr := p.rangeRatio
      if dz.toNat ≤ 0xFFF ∧ rr.toNat ≤ 0xFFF then
        t.host.agenda = .writeSpi cmd offset
          [BitVec.ofNat 8 dz.toNat, BitVec.ofNat 8 (rr.toNat % 16 * 16 + dz.toNat / 256), BitVec.ofNat 8 (rr.toNat / 16)]
          more Progress.start :: rest ∧ t.host.result = s.host.result
      else t.host.agenda = rest ∧ t.host.result = .done .operandRange [])

/-- R190, R245: a capture begins with the frame of `ENC.MODE cmd, 0x30`; it is written, and the first report is read only after
`DEC.ACK` has found in a response of at least 0xF bytes a code that the open test accepts, the capture then as at its start (R203) and the
exchange resolved; until then the host reads again, sends again or gives up. How an answer is told, and that choice, are the model's
(log 31), and so is the note of the exchange (log 34). -/
def Obligations.CaptureSetsTheStandardMode : Prop :=
  ∀ cmd params rest s,
    let unanswered := fun t : State => t.host.capture = s.host.capture ∧
      (t.host.agenda = .capture cmd params .answer :: rest ∨ t.host.agenda = .capture cmd params .mode :: rest ∨
        t.host.agenda = rest ∧ t.host.result = .gaveUp)
    (s.host.agenda = .capture cmd params .mode :: rest → ∃ t, step s = .next t ∧
      t.txBytes = Claims.header s cmd 0x03 ++ [0x30] ++ List.replicate 45 0 ∧ t.seq = s.seq + 1 ∧
      t.host = { s.host with agenda := .capture cmd params .write :: rest, sent := false }) ∧
    (s.host.agenda = .capture cmd params .write :: rest → s.host.session = true → s.nextWrite.complete = true →
      ∀ i r, decode .tx s.txBytes = some i → Claims.asks i = some r → s.host.sent = false → ¬ Claims.outstanding s r →
      ∃ t, step s = .next t ∧ t.host.agenda = .capture cmd params .answer :: rest ∧ t.host.result = s.host.result ∧
        t.host.exchange = some (Claims.exchangeAfter s r true)) ∧
    (s.host.agenda = .capture cmd params .answer :: rest → s.host.session = true → ∃ t, step s = .next t ∧
      if s.nextRead = .error then unanswered t
      else t.host.agenda = .capture cmd params .accept :: rest ∧ t.host.result = s.host.result ∧
        t.host.capture = s.host.capture) ∧
    (s.host.agenda = .capture cmd params .accept :: rest → ∃ t x, step s = .next t ∧
      Claims.Resolved (fun e => e.request = .mode 0x30) s.host.exchange x ∧
      if 0xF ≤ s.rxLen ∧ Config.modeAnswer (Claims.ackOf s) = true then
        t.host.agenda = .capture cmd params .read :: rest ∧ t.host.result = s.host.result ∧
        t.host.exchange = x ∧ t.host.capture.phase = .awaitingCenterSample ∧
        ∀ side : Claims.Side, side.tracks t.host.capture = (⟨0xFFF, 0⟩, ⟨0xFFF, 0⟩)
      else unanswered t)

/-- R201, R202, R203, R205, R206, R211, phase 1: a usable report either ends the phase (R204: whether it does is open) or is tracked,
for each stick the controller has, the first sample of the phase too. The end gives such a stick, if some sample was tracked, its
centers and its one deadzone, limited to 0xFFF (R209), and starts the accumulators again; nothing of a stick that the controller lacks
is found. Rounding, deadzone and start values are the spec's own choice (D17, D22); when a phase ends is open (log 15). -/
def Obligations.CapturePhaseOne : Prop :=
  ∀ cmd params rest s v, s.host.agenda = .capture cmd params .judge :: rest → readSample s = .ok v →
    s.host.capture.phase = .awaitingCenterSample → s.host.capture.ok = true →
    ∃ t, step s = .next t ∧ t.host.agenda = .capture cmd params .read :: rest ∧
      let c := s.host.capture
      let d := t.host.capture
      if Config.termCenter s.rxBytes then
        d.phase = .awaitingRangeSample ∧ ∀ side : Claims.Side,
          side.tracks d = (⟨0xFFF, 0⟩, ⟨0xFFF, 0⟩) ∧
          (side.present s.host.kind → Claims.sampled side c →
            Claims.centered (side.tracks c).1 (side.tracks c).2 params.padInner (side.result d)) ∧
          (¬ side.present s.host.kind → side.result d = side.result c)
      else Claims.Tracked s.host.kind v c d

/-- R201, R202, R203, R208, R209, R210, R211, phase 2: a usable report either ends the capture or is tracked, for each stick the
controller has, the first sample of the phase too. The end gives such a stick, if some sample was tracked, its padded bounds and its
range ratio, and keeps the centers and the deadzone of phase 1; nothing of a stick that the controller lacks is found. Padding, and
the measured spread as range ratio, are the spec's own choice (D30, D23); that `RR_CONST` stands in its place for the kinds of controller
listed in `RR_KINDS` is the model's form of a point the spec leaves open (log 33); when a phase ends is open (log 15). -/
def Obligations.CapturePhaseTwo : Prop :=
  ∀ cmd params rest s v, s.host.agenda = .capture cmd params .judge :: rest → readSample s = .ok v →
    s.host.capture.phase = .awaitingRangeSample → s.host.capture.ok = true →
    ∃ t, step s = .next t ∧
      let c := s.host.capture
      let d := t.host.capture
      if Config.termRange s.rxBytes then
        t.host.agenda = rest ∧ d.phase = .done ∧ ∀ side : Claims.Side,
          (side.present s.host.kind →
            (Claims.sampled side c →
              Claims.bounded (side.tracks c).1 (side.tracks c).2 params s.host.kind (side.result d)) ∧
            (side.result d).xcenter = (side.result c).xcenter ∧ (side.result d).ycenter = (side.result c).ycenter ∧
            (side.result d).deadzone = (side.result c).deadzone) ∧
          (¬ side.present s.host.kind → side.result d = side.result c)
      else t.host.agenda = .capture cmd params .read :: rest ∧ Claims.Tracked s.host.kind v c d

/-- R201, R211, R212, R259: a capture that has begun ends only in phase `Done`: a read, whatever it comes to, and a report that is not
usable keep it on the agenda and leave phase, accumulators and results as they were, and the judgement of a usable report ends it only
in that phase. That a report refused by `SMP.UNPK` is ignored whole is the model's reading (log 25), the read that fails its choice
(log 12). -/
def Obligations.CaptureEndsOnlyInPhaseDone : Prop :=
  ∀ cmd params rest s,
    (s.host.agenda = .capture cmd params .read :: rest → s.host.session = true → ∃ t, step s = .next t ∧
      t.host.capture = s.host.capture ∧ t.host.result = s.host.result ∧
      if s.nextRead = .error then t.host.agenda = .capture cmd params .read :: rest
      else t.host.agenda = .capture cmd params .judge :: rest) ∧
    (s.host.agenda = .capture cmd params .judge :: rest → s.rxLen ≤ 12 → ∃ t, step s = .next t ∧
      t.host = { s.host with agenda := .capture cmd params .read :: rest }) ∧
    (s.host.agenda = .capture cmd params .judge :: rest → 12 < s.rxLen → ∃ t, step s = .next t ∧
      (t.host.agenda = .capture cmd params .read :: rest ∧ t.host.result = s.host.result ∨
        t.host.agenda = rest ∧ t.host.result = .done .ok [] ∧ t.host.capture.phase = .done))
end

