-- ==== Sys2Proof/Laws/Bytes.lean ====
section
/-! SUPPORT. Laws of the byte-order helpers: what a little-endian field reads and writes. -/

namespace Sys2Proof

theorem leNat_lt (bs : List Byte) : leNat bs < 256 ^ bs.length := by
  induction bs with
  | nil => simp [leNat]
  | cons b bs ih =>
    have hb := b.isLt
    simp only [leNat, List.length_cons, Nat.pow_succ]
    omega

@[simp] theorem leBytes_length (n v : Nat) : (leBytes n v).length = n := by
  induction n generalizing v with
  | zero => rfl
  | succ n ih => simp [leBytes, ih]

theorem leNat_leBytes (n v : Nat) : leNat (leBytes n v) = v % 256 ^ n := by
  induction n generalizing v with
  | zero => simp [leBytes, leNat, Nat.mod_one]
  | succ n ih =>
    have h := Nat.mod_mul (x := v) (a := 256) (b := 256 ^ n)
    simp only [leBytes, leNat, ih, BitVec.toNat_ofNat, Nat.pow_succ]
    rw [Nat.mul_comm (256 ^ n) 256, h]

theorem leBytes_leNat (bs : List Byte) : leBytes bs.length (leNat bs) = bs := by
  induction bs with
  | nil => rfl
  | cons b bs ih =>
    have hb := b.isLt
    have h1 : (b.toNat + 256 * leNat bs) / 256 = leNat bs := by omega
    have h2 : BitVec.ofNat 8 (b.toNat + 256 * leNat bs) = b := by
      apply BitVec.eq_of_toNat_eq
      simp only [BitVec.toNat_ofNat]
      omega
    simp only [List.length_cons, leBytes, leNat, h1, h2, ih]

@[simp] theorem le16_leBytes (v : Word) : le16 (leBytes 2 v.toNat) = v := by
  apply BitVec.eq_of_toNat_eq
  have h := v.isLt
  simp only [le16, leNat_leBytes, BitVec.toNat_ofNat]
  omega

@[simp] theorem le32_leBytes (v : Offset) : le32 (leBytes 4 v.toNat) = v := by
  apply BitVec.eq_of_toNat_eq
  have h := v.isLt
  simp only [le32, leNat_leBytes, BitVec.toNat_ofNat]
  omega

/-- The number an append spells. -/
theorem toNat_append_bytes {n : Nat} (x : BitVec n) (b : Byte) : (x ++ b).toNat = b.toNat + 256 * x.toNat := by
  rw [BitVec.toNat_append, ← Nat.shiftLeft_add_eq_or_of_lt b.isLt, Nat.shiftLeft_eq]
  omega

/-- A `u16` field is its two bytes, the second one high. -/
theorem le16_pair (a b : Byte) : le16 [a, b] = b ++ a := by
  apply BitVec.eq_of_toNat_eq
  have ha := a.isLt
  have hb := b.isLt
  simp only [le16, leNat, BitVec.toNat_ofNat, toNat_append_bytes]
  omega

/-- A `u32` field is its four bytes, the last one highest. -/
theorem le32_quad (a b c d : Byte) : le32 [a, b, c, d] = d ++ c ++ b ++ a := by
  apply BitVec.eq_of_toNat_eq
  have ha := a.isLt
  have hb := b.isLt
  have hc := c.isLt
  have hd := d.isLt
  simp only [le32, leNat, BitVec.toNat_ofNat, toNat_append_bytes]
  omega

/-- The two bytes of a `u16`. -/
theorem leBytes_word (v : Word) : leBytes 2 v.toNat = [v.extractLsb' 0 8, v.extractLsb' 8 8] := by
  simp [leBytes, BitVec.extractLsb', Nat.shiftRight_eq_div_pow]

/-- The four bytes of a `u32`. -/
theorem leBytes_offset (v : Offset) :
    leBytes 4 v.toNat = [v.extractLsb' 0 8, v.extractLsb' 8 8, v.extractLsb' 16 8, v.extractLsb' 24 8] := by
  simp [leBytes, BitVec.extractLsb', Nat.shiftRight_eq_div_pow, Nat.div_div_eq_div_mul]

@[simp] theorem allZero_replicate (n : Nat) : allZero (List.replicate n 0) = true := by
  simp [allZero]

theorem allZero_eq_replicate {bs : List Byte} (h : allZero bs = true) : bs = List.replicate bs.length 0 := by
  rw [List.eq_replicate_iff]
  exact ⟨rfl, by simpa [allZero] using h⟩

@[simp] theorem padTo_length (n : Nat) (bs : List Byte) (h : bs.length ≤ n) : (padTo n bs).length = n := by
  simp [padTo]; omega

/-- A frame is 49 bytes long. -/
theorem frame_length (cmd : Byte) (timer : BitVec 4) (sub : Byte) (args : List Byte) (h : args.length ≤ 46) :
    (frame cmd timer sub args).length = 49 := by
  unfold frame
  rw [padTo_length] <;> simp [Config.frameLen]; omega

/-- A frame, byte by byte. -/
theorem frame_eq (cmd : Byte) (timer : BitVec 4) (sub : Byte) (args : List Byte) :
    frame cmd timer sub args =
      cmd :: timer.setWidth 8 :: sub :: (args ++ List.replicate (46 - args.length) 0) := by
  have h : 49 - (args.length + 1 + 1 + 1) = 46 - args.length := by omega
  simp [frame, padTo, Config.frameLen, h]

end Sys2Proof
end

