-- ==== Sys2Proof/Laws/Frames.lean ====
section
/-! SUPPORT. What the decoder reads from a frame as `frame` lays it out, one lemma per subcommand; and the bytes of a little-endian
field, both ways. -/

namespace Sys2Proof

/-- The two bytes of a 16-bit value written high byte first. -/
theorem leBytes_append_two (b a : Byte) : leBytes 2 (b ++ a : Word).toNat = [a, b] := by
  have h := leBytes_leNat [a, b]
  have hlt := leNat_lt [a, b]
  simp only [List.length] at h hlt
  rw [← le16_pair, le16, BitVec.toNat_ofNat, Nat.mod_eq_of_lt (by simpa using hlt)]
  exact h

/-- The four bytes of a 32-bit value written high byte first. -/
theorem leBytes_append_four (d c b a : Byte) : leBytes 4 (d ++ c ++ b ++ a : Offset).toNat = [a, b, c, d] := by
  have h := leBytes_leNat [a, b, c, d]
  have hlt := leNat_lt [a, b, c, d]
  simp only [List.length] at h hlt
  rw [← le32_quad, le32, BitVec.toNat_ofNat, Nat.mod_eq_of_lt (by simpa using hlt)]
  exact h

@[simp] theorem leBytes_le16 (a b : Byte) : leBytes 2 (le16 [a, b]).toNat = [a, b] := by rw [le16_pair, leBytes_append_two]

@[simp] theorem leBytes_le32 (a b c d : Byte) : leBytes 4 (le32 [a, b, c, d]).toNat = [a, b, c, d] := by
  rw [le32_quad, leBytes_append_four]

/-- A 16-bit value from its two bytes. -/
theorem le16_extract (v : Word) : le16 [v.extractLsb' 0 8, v.extractLsb' 8 8] = v := by rw [← leBytes_word, le16_leBytes]

/-- A 32-bit value from its four bytes. -/
theorem le32_extract (v : Offset) :
    le32 [v.extractLsb' 0 8, v.extractLsb' 8 8, v.extractLsb' 16 8, v.extractLsb' 24 8] = v := by
  rw [← leBytes_offset, le32_leBytes]

/-- A timer nibble fits the byte that carries it. -/
theorem timer_mod (t : BitVec 4) : t.toNat % 256 = t.toNat := Nat.mod_eq_of_lt (Nat.lt_trans t.isLt (by decide))

theorem decode_frame_info (cmd : Byte) (t : BitVec 4) :
    decode .tx (frame cmd t Config.subInfo []) = some (.frameInfo cmd t) := by
  have ht : t.toNat < 16 := t.isLt
  simp [allZero, frame_eq, decode, decodeTx, Config.subInfo, timer_mod, ht]

theorem decode_frame_mode (cmd : Byte) (t : BitVec 4) (mode : Byte) :
    decode .tx (frame cmd t Config.subMode [mode]) = some (.frameMode cmd t mode) := by
  have ht : t.toNat < 16 := t.isLt
  simp [allZero, frame_eq, decode, decodeTx, Config.subInfo, Config.subMode, timer_mod, ht]

theorem decode_frame_spir (cmd : Byte) (t : BitVec 4) (offset : Offset) (size : Word) :
    decode .tx (frame cmd t Config.subSpir (spiArgs offset size.toNat)) = some (.frameSpir cmd t offset size) := by
  have ht : t.toNat < 16 := t.isLt
  simp [allZero, frame_eq, decode, decodeTx, Config.subInfo, Config.subMode, Config.subSpir, timer_mod, ht, spiArgs,
    leBytes_offset, leBytes_word, le32_extract, le16_extract]

theorem decode_frame_spiw (cmd : Byte) (t : BitVec 4) (offset : Offset) (data : List Byte) (hd : data.length ≤ Config.wdataMax) :
    decode .tx (frame cmd t Config.subSpiw (spiwArgs offset data)) = some (.frameSpiw cmd t offset data) := by
  have ht : t.toNat < 16 := t.isLt
  have hd' : data.length ≤ 29 := hd
  have h2 : leBytes 2 data.length = [BitVec.ofNat 8 data.length, 0] := by
    simp [leBytes]; congr 1; omega
  have h3 : data.length % 256 = data.length := by omega
  simp [allZero, frame_eq, decode, decodeTx, Config.subInfo, Config.subMode, Config.subSpir, Config.subSpiw, Config.wdataMax,
    timer_mod, ht, spiArgs, spiwArgs, leBytes_offset, h2, le32_extract, List.replicate, leNat, h3, hd']
  omega

/-- The length of the argument bytes of an SPI-write frame. -/
theorem spiwArgs_length (offset : Offset) (data : List Byte) : (spiwArgs offset data).length = 13 + data.length := by
  simp [spiwArgs, spiArgs]; omega

/-- The length of the argument bytes of an SPI-read frame. -/
theorem spiArgs_length (offset : Offset) (n : Nat) : (spiArgs offset n).length = 6 := by simp [spiArgs]

end Sys2Proof
end

