-- ==== Sys2Proof/Laws/Memory.lean ====
section
/-! SUPPORT. Laws of the address spaces: read after write, and that every operation keeps the canonical form. -/

namespace Sys2Proof.Machine

/-! ### Reading after a write -/

theorem Memory.find_insert_same (m : Memory) (a : Nat) (b : Byte) : Memory.find (Memory.insert m a b) a = some b := by
  induction m with
  | nil => simp [Memory.insert, Memory.find]
  | cons c m ih =>
    obtain ⟨k, v⟩ := c
    simp only [Memory.insert]
    split
    · simp [Memory.find]
    · split
      · simp [Memory.find]
      · rename_i h1 h2
        simp [Memory.find, Ne.symm h2, ih]

theorem Memory.find_insert_ne (m : Memory) (a a' : Nat) (b : Byte) (h : a' ≠ a) :
    Memory.find (Memory.insert m a b) a' = Memory.find m a' := by
  induction m with
  | nil => simp [Memory.insert, Memory.find, Ne.symm h]
  | cons c m ih =>
    obtain ⟨k, v⟩ := c
    simp only [Memory.insert]
    split
    · simp [Memory.find, Ne.symm h]
    · split
      · rename_i h1 h2
        subst h2
        simp [Memory.find, Ne.symm h]
      · simp [Memory.find, ih]

/-- A byte written is read back; every other byte is as before. -/
theorem Memory.find_writeBytes (m : Memory) (a x : Nat) (bs : List Byte) :
    Memory.find (Memory.writeBytes m a bs) x =
      if a ≤ x ∧ x < a + bs.length then bs[x - a]? else Memory.find m x := by
  induction bs generalizing m a with
  | nil =>
    have h : ¬ (a ≤ x ∧ x < a) := by omega
    simp [Memory.writeBytes, h]
  | cons b bs ih =>
    rw [Memory.writeBytes, ih]
    by_cases hx : x = a
    · subst hx
      simp [Memory.find_insert_same]
    · rw [Memory.find_insert_ne _ _ _ _ hx]
      by_cases h : a + 1 ≤ x ∧ x < a + 1 + bs.length
      · have h' : a ≤ x ∧ x < a + (b :: bs).length := by simp; omega
        obtain ⟨j, hj⟩ : ∃ j, x - a = j + 1 := ⟨x - a - 1, by omega⟩
        have hj' : x - (a + 1) = j := by omega
        rw [if_pos h, if_pos h', hj, hj', List.getElem?_cons_succ]
      · have h' : ¬ (a ≤ x ∧ x < a + (b :: bs).length) := by simp; omega
        simp only [h, h', if_false]

theorem Memory.find_ofBytesAt (k a : Nat) (bs : List Byte) :
    (Memory.find (Memory.ofBytesAt k bs) a).getD 0 = if a < k then 0 else bs.getD (a - k) 0 := by
  induction bs generalizing k with
  | nil => simp [Memory.ofBytesAt, Memory.find]
  | cons b bs ih =>
    have rest : ∀ c : Byte, a ≠ k → (if a < k + 1 then 0 else bs.getD (a - (k + 1)) 0)
        = if a < k then 0 else (c :: bs).getD (a - k) 0 := by
      intro c h
      by_cases h1 : a < k
      · simp [h1, Nat.lt_succ_of_lt h1]
      · obtain ⟨j, hj⟩ : ∃ j, a - k = j + 1 := ⟨a - k - 1, by omega⟩
        have hj' : a - (k + 1) = j := by omega
        have h2 : ¬ a < k + 1 := by omega
        simp [h1, h2, hj, hj']
    simp only [Memory.ofBytesAt]
    split
    · rename_i hb
      rw [ih]
      by_cases h : a = k
      · subst h; simp [hb]
      · exact rest b h
    · by_cases h : a = k
      · subst h; simp [Memory.find]
      · simp only [Memory.find, Ne.symm h, if_false, ih]
        exact rest b h

/-- A buffer written whole reads as the bytes written, and 0x00 after them. -/
@[simp] theorem Memory.byte_ofBytes (bs : List Byte) (a : Nat) : Memory.byte (Memory.ofBytes bs) a = bs.getD a 0 := by
  have h := Memory.find_ofBytesAt 0 a bs
  simpa [Memory.byte, Memory.ofBytes] using h

@[simp] theorem Memory.byte_nil (a : Nat) : Memory.byte [] a = 0 := rfl

/-- The bytes of a range, one by one. -/
theorem Memory.bytes_eq_map (m : Memory) (a n : Nat) :
    Memory.bytes m a n = (List.range n).map fun i => Memory.byte m (a + i) := by
  induction n generalizing a with
  | zero => rfl
  | succ n ih =>
    simp only [Memory.bytes, ih, List.range_succ_eq_map, List.map_cons, List.map_map, Nat.add_zero]
    congr 1
    apply List.map_congr_left
    intro i _
    simp [Nat.add_assoc, Nat.add_comm 1 i]

@[simp] theorem Memory.bytes_length (m : Memory) (a n : Nat) : (Memory.bytes m a n).length = n := by
  simp [Memory.bytes_eq_map]

/-- Two memories that agree on a range give the same bytes of it. -/
theorem Memory.bytes_congr {m m' : Memory} {a n : Nat}
    (h : ∀ i, i < n → Memory.byte m (a + i) = Memory.byte m' (a + i)) : Memory.bytes m a n = Memory.bytes m' a n := by
  simp only [Memory.bytes_eq_map]
  exact List.map_congr_left fun i hi => h i (List.mem_range.1 hi)

/-- A buffer written whole holds the bytes written. -/
theorem Memory.bytes_ofBytes (bs : List Byte) : Memory.bytes (Memory.ofBytes bs) 0 bs.length = bs := by
  apply List.ext_getElem
  · simp
  · intro i h1 h2
    simp only [Memory.bytes_eq_map, List.getElem_map, List.getElem_range, Memory.byte_ofBytes, Nat.zero_add]
    simp [h2]

/-! ### The canonical form -/

theorem Memory.wf_iff (blank : Option Byte) (size : Nat) (m : Memory) :
    Memory.wf blank size m = true ↔
      Memory.rising 0 m = true ∧ ∀ c ∈ m, c.1 < size ∧ some c.2 ≠ blank := by
  simp [Memory.wf]

@[simp] theorem Memory.wf_nil (blank : Option Byte) (size : Nat) : Memory.wf blank size [] = true := rfl

theorem Memory.rising_mono {lo lo' : Nat} {m : Memory} (h : lo' ≤ lo) (hm : Memory.rising lo m = true) :
    Memory.rising lo' m = true := by
  cases m with
  | nil => rfl
  | cons c m =>
    simp only [Memory.rising, Bool.and_eq_true, decide_eq_true_eq] at hm ⊢
    exact ⟨by omega, hm.2⟩

theorem Memory.rising_insert {lo : Nat} (m : Memory) (a : Nat) (b : Byte) (ha : lo ≤ a) (hm : Memory.rising lo m = true) :
    Memory.rising lo (Memory.insert m a b) = true := by
  induction m generalizing lo with
  | nil => simp [Memory.insert, Memory.rising, ha]
  | cons c m ih =>
    obtain ⟨k, v⟩ := c
    simp only [Memory.rising, Bool.and_eq_true, decide_eq_true_eq] at hm
    simp only [Memory.insert]
    split
    · simp only [Memory.rising, Bool.and_eq_true, decide_eq_true_eq]
      exact ⟨ha, by omega, hm.2⟩
    · split
      · rename_i h1 h2
        subst h2
        simp only [Memory.rising, Bool.and_eq_true, decide_eq_true_eq]
        exact ⟨ha, hm.2⟩
      · simp only [Memory.rising, Bool.and_eq_true, decide_eq_true_eq]
        exact ⟨hm.1, ih (by omega) hm.2⟩

theorem Memory.mem_insert {m : Memory} {a : Nat} {b : Byte} {c : Host.Cell} (h : c ∈ Memory.insert m a b) :
    c = (a, b) ∨ c ∈ m := by
  induction m with
  | nil => exact .inl (by simpa [Memory.insert] using h)
  | cons d m ih =>
    obtain ⟨k, v⟩ := d
    simp only [Memory.insert] at h
    split at h
    · simpa using h
    · split at h
      · rcases List.mem_cons.1 h with h | h
        · exact .inl h
        · exact .inr (List.mem_cons_of_mem _ h)
      · rcases List.mem_cons.1 h with h | h
        · exact .inr (h ▸ List.mem_cons_self)
        · exact (ih h).imp id (List.mem_cons_of_mem _)

/-- A byte written at an address of the space keeps the canonical form, if it is no byte that goes unlisted. -/
theorem Memory.wf_insert {blank : Option Byte} {size : Nat} {m : Memory} {a : Nat} {b : Byte} (ha : a < size)
    (hb : some b ≠ blank) (hm : Memory.wf blank size m = true) : Memory.wf blank size (Memory.insert m a b) = true := by
  rw [Memory.wf_iff] at hm ⊢
  refine ⟨Memory.rising_insert m a b (Nat.zero_le a) hm.1, fun c hc => ?_⟩
  rcases Memory.mem_insert hc with rfl | hc
  · exact ⟨ha, hb⟩
  · exact hm.2 c hc

/-- Writing a byte string to `FLASH` keeps the canonical form. -/
theorem Memory.wf_writeBytes {size : Nat} {m : Memory} {a : Nat} {bs : List Byte} (ha : a + bs.length ≤ size)
    (hm : Memory.wf none size m = true) : Memory.wf none size (Memory.writeBytes m a bs) = true := by
  induction bs generalizing m a with
  | nil => exact hm
  | cons b bs ih =>
    simp only [List.length_cons] at ha
    exact ih (by omega) (Memory.wf_insert (by omega) (by simp) hm)

theorem Memory.rising_ofBytesAt (k : Nat) (bs : List Byte) : Memory.rising k (Memory.ofBytesAt k bs) = true := by
  induction bs generalizing k with
  | nil => rfl
  | cons b bs ih =>
    simp only [Memory.ofBytesAt]
    split
    · exact Memory.rising_mono (by omega) (ih (k + 1))
    · simp [Memory.rising, ih (k + 1)]

theorem Memory.mem_ofBytesAt {k : Nat} {bs : List Byte} {c : Host.Cell} (h : c ∈ Memory.ofBytesAt k bs) :
    c.1 < k + bs.length ∧ c.2 ≠ 0 := by
  induction bs generalizing k with
  | nil => simp [Memory.ofBytesAt] at h
  | cons b bs ih =>
    simp only [Memory.ofBytesAt] at h
    split at h
    · have := ih h
      simp only [List.length_cons]
      exact ⟨by omega, this.2⟩
    · rcases List.mem_cons.1 h with rfl | h
      · simp only [List.length_cons]
        exact ⟨by omega, ‹_›⟩
      · have := ih h
        simp only [List.length_cons]
        exact ⟨by omega, this.2⟩

/-- A buffer written whole is in canonical form. -/
theorem Memory.wf_ofBytes {size : Nat} {bs : List Byte} (h : bs.length ≤ size) :
    Memory.wf (some 0) size (Memory.ofBytes bs) = true := by
  rw [Memory.wf_iff]
  refine ⟨Memory.rising_ofBytesAt 0 bs, fun c hc => ?_⟩
  have := Memory.mem_ofBytesAt hc
  exact ⟨by omega, by simpa using this.2⟩

theorem Memory.find_eq_none_of_rising {lo a : Nat} {m : Memory} (hm : Memory.rising lo m = true) (h : a < lo) :
    Memory.find m a = none := by
  induction m generalizing lo with
  | nil => rfl
  | cons c m ih =>
    obtain ⟨k, v⟩ := c
    simp only [Memory.rising, Bool.and_eq_true, decide_eq_true_eq] at hm
    simp only [Memory.find]
    rw [if_neg (by omega)]
    exact ih hm.2 (by omega)

/-- Memories in canonical form that read alike are the same list. -/
theorem Memory.ext_of_rising {lo : Nat} {m m' : Memory} (hm : Memory.rising lo m = true) (hm' : Memory.rising lo m' = true)
    (h : ∀ a, Memory.find m a = Memory.find m' a) : m = m' := by
  induction m generalizing lo m' with
  | nil =>
    cases m' with
    | nil => rfl
    | cons c m' => have := h c.1; simp [Memory.find] at this
  | cons c m ih =>
    cases m' with
    | nil => have := h c.1; simp [Memory.find] at this
    | cons c' m' =>
      obtain ⟨k, v⟩ := c
      obtain ⟨k', v'⟩ := c'
      simp only [Memory.rising, Bool.and_eq_true, decide_eq_true_eq] at hm hm'
      have hk : k = k' := by
        by_contra hne
        rcases Nat.lt_or_gt_of_ne hne with hlt | hlt
        · have := h k
          simp [Memory.find, Ne.symm hne, Memory.find_eq_none_of_rising hm'.2 (show k < k' + 1 by omega)] at this
        · have := h k'
          simp [Memory.find, hne, Memory.find_eq_none_of_rising hm.2 (show k' < k + 1 by omega)] at this
      subst hk
      have hv : v = v' := by simpa [Memory.find] using h k
      subst hv
      have hrest : ∀ a, Memory.find m a = Memory.find m' a := by
        intro a
        by_cases ha : k = a
        · subst ha
          rw [Memory.find_eq_none_of_rising hm.2 (Nat.lt_succ_self k), Memory.find_eq_none_of_rising hm'.2 (Nat.lt_succ_self k)]
        · have := h a
          simpa [Memory.find, ha] using this
      rw [ih hm.2 hm'.2 hrest]

end Sys2Proof.Machine
end

