-- ==== Sys2Proof/Laws/State.lean ====
section
/-! SUPPORT. One lemma per field and update of State: what each named update writes and what it leaves. -/

namespace Sys2Proof.Machine

variable (s : State)

/-! ### setRes -/

@[simp] theorem State.setRes_seq (bytes : List Byte) : (s.setRes bytes).seq = s.seq := rfl
@[simp] theorem State.setRes_crc (bytes : List Byte) : (s.setRes bytes).crc = s.crc := rfl
@[simp] theorem State.setRes_rxLen (bytes : List Byte) : (s.setRes bytes).rxLen = s.rxLen := rfl
@[simp] theorem State.setRes_txbuf (bytes : List Byte) : (s.setRes bytes).txbuf = s.txbuf := rfl
@[simp] theorem State.setRes_rxbuf (bytes : List Byte) : (s.setRes bytes).rxbuf = s.rxbuf := rfl
@[simp] theorem State.setRes_res (bytes : List Byte) : (s.setRes bytes).res = bytes := rfl
@[simp] theorem State.setRes_host (bytes : List Byte) : (s.setRes bytes).host = s.host := rfl
@[simp] theorem State.setRes_transport (bytes : List Byte) : (s.setRes bytes).transport = s.transport := rfl
@[simp] theorem State.setRes_device (bytes : List Byte) : (s.setRes bytes).device = s.device := rfl

/-! ### setCrc -/

@[simp] theorem State.setCrc_seq (c : Byte) : (s.setCrc c).seq = s.seq := rfl
@[simp] theorem State.setCrc_crc (c : Byte) : (s.setCrc c).crc = c := rfl
@[simp] theorem State.setCrc_rxLen (c : Byte) : (s.setCrc c).rxLen = s.rxLen := rfl
@[simp] theorem State.setCrc_txbuf (c : Byte) : (s.setCrc c).txbuf = s.txbuf := rfl
@[simp] theorem State.setCrc_rxbuf (c : Byte) : (s.setCrc c).rxbuf = s.rxbuf := rfl
@[simp] theorem State.setCrc_res (c : Byte) : (s.setCrc c).res = s.res := rfl
@[simp] theorem State.setCrc_host (c : Byte) : (s.setCrc c).host = s.host := rfl
@[simp] theorem State.setCrc_transport (c : Byte) : (s.setCrc c).transport = s.transport := rfl
@[simp] theorem State.setCrc_device (c : Byte) : (s.setCrc c).device = s.device := rfl

/-! ### setSeq -/

@[simp] theorem State.setSeq_seq (n : BitVec 4) : (s.setSeq n).seq = n := rfl
@[simp] theorem State.setSeq_crc (n : BitVec 4) : (s.setSeq n).crc = s.crc := rfl
@[simp] theorem State.setSeq_rxLen (n : BitVec 4) : (s.setSeq n).rxLen = s.rxLen := rfl
@[simp] theorem State.setSeq_txbuf (n : BitVec 4) : (s.setSeq n).txbuf = s.txbuf := rfl
@[simp] theorem State.setSeq_rxbuf (n : BitVec 4) : (s.setSeq n).rxbuf = s.rxbuf := rfl
@[simp] theorem State.setSeq_res (n : BitVec 4) : (s.setSeq n).res = s.res := rfl
@[simp] theorem State.setSeq_host (n : BitVec 4) : (s.setSeq n).host = s.host := rfl
@[simp] theorem State.setSeq_transport (n : BitVec 4) : (s.setSeq n).transport = s.transport := rfl
@[simp] theorem State.setSeq_device (n : BitVec 4) : (s.setSeq n).device = s.device := rfl

/-! ### setTx -/

@[simp] theorem State.setTx_seq (bytes : List Byte) : (s.setTx bytes).seq = s.seq := rfl
@[simp] theorem State.setTx_crc (bytes : List Byte) : (s.setTx bytes).crc = s.crc := rfl
@[simp] theorem State.setTx_rxLen (bytes : List Byte) : (s.setTx bytes).rxLen = s.rxLen := rfl
@[simp] theorem State.setTx_txbuf (bytes : List Byte) : (s.setTx bytes).txbuf = Memory.ofBytes bytes := rfl
@[simp] theorem State.setTx_rxbuf (bytes : List Byte) : (s.setTx bytes).rxbuf = s.rxbuf := rfl
@[simp] theorem State.setTx_res (bytes : List Byte) : (s.setTx bytes).res = s.res := rfl
@[simp] theorem State.setTx_host (bytes : List Byte) : (s.setTx bytes).host = s.host := rfl
@[simp] theorem State.setTx_transport (bytes : List Byte) : (s.setTx bytes).transport = s.transport := rfl
@[simp] theorem State.setTx_device (bytes : List Byte) : (s.setTx bytes).device = s.device := rfl

/-! ### setRx -/

@[simp] theorem State.setRx_seq (bytes : List Byte) : (s.setRx bytes).seq = s.seq := rfl
@[simp] theorem State.setRx_crc (bytes : List Byte) : (s.setRx bytes).crc = s.crc := rfl
@[simp] theorem State.setRx_rxLen (bytes : List Byte) : (s.setRx bytes).rxLen = bytes.length := rfl
@[simp] theorem State.setRx_txbuf (bytes : List Byte) : (s.setRx bytes).txbuf = s.txbuf := rfl
@[simp] theorem State.setRx_rxbuf (bytes : List Byte) : (s.setRx bytes).rxbuf = Memory.ofBytes bytes := rfl
@[simp] theorem State.setRx_res (bytes : List Byte) : (s.setRx bytes).res = s.res := rfl
@[simp] theorem State.setRx_host (bytes : List Byte) : (s.setRx bytes).host = s.host := rfl
@[simp] theorem State.setRx_transport (bytes : List Byte) : (s.setRx bytes).transport = s.transport := rfl
@[simp] theorem State.setRx_device (bytes : List Byte) : (s.setRx bytes).device = s.device := rfl

/-! ### setHost -/

@[simp] theorem State.setHost_seq (h : HostState) : (s.setHost h).seq = s.seq := rfl
@[simp] theorem State.setHost_crc (h : HostState) : (s.setHost h).crc = s.crc := rfl
@[simp] theorem State.setHost_rxLen (h : HostState) : (s.setHost h).rxLen = s.rxLen := rfl
@[simp] theorem State.setHost_txbuf (h : HostState) : (s.setHost h).txbuf = s.txbuf := rfl
@[simp] theorem State.setHost_rxbuf (h : HostState) : (s.setHost h).rxbuf = s.rxbuf := rfl
@[simp] theorem State.setHost_res (h : HostState) : (s.setHost h).res = s.res := rfl
@[simp] theorem State.setHost_host (h : HostState) : (s.setHost h).host = h := rfl
@[simp] theorem State.setHost_transport (h : HostState) : (s.setHost h).transport = s.transport := rfl
@[simp] theorem State.setHost_device (h : HostState) : (s.setHost h).device = s.device := rfl

/-! ### setExchange -/

@[simp] theorem State.setExchange_seq (x : Option Exchange) : (s.setExchange x).seq = s.seq := rfl
@[simp] theorem State.setExchange_crc (x : Option Exchange) : (s.setExchange x).crc = s.crc := rfl
@[simp] theorem State.setExchange_rxLen (x : Option Exchange) : (s.setExchange x).rxLen = s.rxLen := rfl
@[simp] theorem State.setExchange_txbuf (x : Option Exchange) : (s.setExchange x).txbuf = s.txbuf := rfl
@[simp] theorem State.setExchange_rxbuf (x : Option Exchange) : (s.setExchange x).rxbuf = s.rxbuf := rfl
@[simp] theorem State.setExchange_res (x : Option Exchange) : (s.setExchange x).res = s.res := rfl
@[simp] theorem State.setExchange_host (x : Option Exchange) : (s.setExchange x).host = { s.host with exchange := x } := rfl
@[simp] theorem State.setExchange_transport (x : Option Exchange) : (s.setExchange x).transport = s.transport := rfl
@[simp] theorem State.setExchange_device (x : Option Exchange) : (s.setExchange x).device = s.device := rfl

/-! ### setTransport -/

@[simp] theorem State.setTransport_seq (t : Transport) : (s.setTransport t).seq = s.seq := rfl
@[simp] theorem State.setTransport_crc (t : Transport) : (s.setTransport t).crc = s.crc := rfl
@[simp] theorem State.setTransport_rxLen (t : Transport) : (s.setTransport t).rxLen = s.rxLen := rfl
@[simp] theorem State.setTransport_txbuf (t : Transport) : (s.setTransport t).txbuf = s.txbuf := rfl
@[simp] theorem State.setTransport_rxbuf (t : Transport) : (s.setTransport t).rxbuf = s.rxbuf := rfl
@[simp] theorem State.setTransport_res (t : Transport) : (s.setTransport t).res = s.res := rfl
@[simp] theorem State.setTransport_host (t : Transport) : (s.setTransport t).host = s.host := rfl
@[simp] theorem State.setTransport_transport (t : Transport) : (s.setTransport t).transport = t := rfl
@[simp] theorem State.setTransport_device (t : Transport) : (s.setTransport t).device = s.device := rfl

/-! ### setDevice -/

@[simp] theorem State.setDevice_seq (d : Device) : (s.setDevice d).seq = s.seq := rfl
@[simp] theorem State.setDevice_crc (d : Device) : (s.setDevice d).crc = s.crc := rfl
@[simp] theorem State.setDevice_rxLen (d : Device) : (s.setDevice d).rxLen = s.rxLen := rfl
@[simp] theorem State.setDevice_txbuf (d : Device) : (s.setDevice d).txbuf = s.txbuf := rfl
@[simp] theorem State.setDevice_rxbuf (d : Device) : (s.setDevice d).rxbuf = s.rxbuf := rfl
@[simp] theorem State.setDevice_res (d : Device) : (s.setDevice d).res = s.res := rfl
@[simp] theorem State.setDevice_host (d : Device) : (s.setDevice d).host = s.host := rfl
@[simp] theorem State.setDevice_transport (d : Device) : (s.setDevice d).transport = s.transport := rfl
@[simp] theorem State.setDevice_device (d : Device) : (s.setDevice d).device = d := rfl

/-! ### setCapture -/

@[simp] theorem State.setCapture_seq (c : Capture) : (s.setCapture c).seq = s.seq := rfl
@[simp] theorem State.setCapture_crc (c : Capture) : (s.setCapture c).crc = s.crc := rfl
@[simp] theorem State.setCapture_rxLen (c : Capture) : (s.setCapture c).rxLen = s.rxLen := rfl
@[simp] theorem State.setCapture_txbuf (c : Capture) : (s.setCapture c).txbuf = s.txbuf := rfl
@[simp] theorem State.setCapture_rxbuf (c : Capture) : (s.setCapture c).rxbuf = s.rxbuf := rfl
@[simp] theorem State.setCapture_res (c : Capture) : (s.setCapture c).res = s.res := rfl
@[simp] theorem State.setCapture_host (c : Capture) : (s.setCapture c).host = { s.host with capture := c } := rfl
@[simp] theorem State.setCapture_transport (c : Capture) : (s.setCapture c).transport = s.transport := rfl
@[simp] theorem State.setCapture_device (c : Capture) : (s.setCapture c).device = s.device := rfl

/-! ### plan -/

@[simp] theorem State.plan_seq (t : Task) : (s.plan t).seq = s.seq := rfl
@[simp] theorem State.plan_crc (t : Task) : (s.plan t).crc = s.crc := rfl
@[simp] theorem State.plan_rxLen (t : Task) : (s.plan t).rxLen = s.rxLen := rfl
@[simp] theorem State.plan_txbuf (t : Task) : (s.plan t).txbuf = s.txbuf := rfl
@[simp] theorem State.plan_rxbuf (t : Task) : (s.plan t).rxbuf = s.rxbuf := rfl
@[simp] theorem State.plan_res (t : Task) : (s.plan t).res = s.res := rfl
@[simp] theorem State.plan_host (t : Task) : (s.plan t).host = { s.host with agenda := t :: s.host.agenda } := rfl
@[simp] theorem State.plan_transport (t : Task) : (s.plan t).transport = s.transport := rfl
@[simp] theorem State.plan_device (t : Task) : (s.plan t).device = s.device := rfl

/-! ### settle -/

@[simp] theorem State.settle_seq : (s.settle).seq = s.seq := rfl
@[simp] theorem State.settle_crc : (s.settle).crc = s.crc := rfl
@[simp] theorem State.settle_rxLen : (s.settle).rxLen = s.rxLen := rfl
@[simp] theorem State.settle_txbuf : (s.settle).txbuf = s.txbuf := rfl
@[simp] theorem State.settle_rxbuf : (s.settle).rxbuf = s.rxbuf := rfl
@[simp] theorem State.settle_res : (s.settle).res = s.res := rfl
@[simp] theorem State.settle_host : (s.settle).host = { s.host with settleOwed := false, ms := Config.tSettle } := rfl
@[simp] theorem State.settle_transport : (s.settle).transport = s.transport := rfl
@[simp] theorem State.settle_device : (s.settle).device = s.device := rfl

/-! ### popTask -/

@[simp] theorem State.popTask_seq : (s.popTask).seq = s.seq := rfl
@[simp] theorem State.popTask_crc : (s.popTask).crc = s.crc := rfl
@[simp] theorem State.popTask_rxLen : (s.popTask).rxLen = s.rxLen := rfl
@[simp] theorem State.popTask_txbuf : (s.popTask).txbuf = s.txbuf := rfl
@[simp] theorem State.popTask_rxbuf : (s.popTask).rxbuf = s.rxbuf := rfl
@[simp] theorem State.popTask_res : (s.popTask).res = s.res := rfl
@[simp] theorem State.popTask_host : (s.popTask).host = { s.host with agenda := s.host.agenda.tail } := rfl
@[simp] theorem State.popTask_transport : (s.popTask).transport = s.transport := rfl
@[simp] theorem State.popTask_device : (s.popTask).device = s.device := rfl

/-! ### popChoice -/

@[simp] theorem State.popChoice_seq : (s.popChoice).seq = s.seq := rfl
@[simp] theorem State.popChoice_crc : (s.popChoice).crc = s.crc := rfl
@[simp] theorem State.popChoice_rxLen : (s.popChoice).rxLen = s.rxLen := rfl
@[simp] theorem State.popChoice_txbuf : (s.popChoice).txbuf = s.txbuf := rfl
@[simp] theorem State.popChoice_rxbuf : (s.popChoice).rxbuf = s.rxbuf := rfl
@[simp] theorem State.popChoice_res : (s.popChoice).res = s.res := rfl
@[simp] theorem State.popChoice_host : (s.popChoice).host = { s.host with choices := s.host.choices.tail } := rfl
@[simp] theorem State.popChoice_transport : (s.popChoice).transport = s.transport := rfl
@[simp] theorem State.popChoice_device : (s.popChoice).device = s.device := rfl

/-! ### popWrite -/

@[simp] theorem State.popWrite_seq : (s.popWrite).seq = s.seq := rfl
@[simp] theorem State.popWrite_crc : (s.popWrite).crc = s.crc := rfl
@[simp] theorem State.popWrite_rxLen : (s.popWrite).rxLen = s.rxLen := rfl
@[simp] theorem State.popWrite_txbuf : (s.popWrite).txbuf = s.txbuf := rfl
@[simp] theorem State.popWrite_rxbuf : (s.popWrite).rxbuf = s.rxbuf := rfl
@[simp] theorem State.popWrite_res : (s.popWrite).res = s.res := rfl
@[simp] theorem State.popWrite_host : (s.popWrite).host = s.host := rfl
@[simp] theorem State.popWrite_transport : (s.popWrite).transport = { s.transport with writes := s.transport.writes.tail } := rfl
@[simp] theorem State.popWrite_device : (s.popWrite).device = s.device := rfl

/-! ### setSent -/

@[simp] theorem State.setSent_seq (b : Bool) : (s.setSent b).seq = s.seq := rfl
@[simp] theorem State.setSent_crc (b : Bool) : (s.setSent b).crc = s.crc := rfl
@[simp] theorem State.setSent_rxLen (b : Bool) : (s.setSent b).rxLen = s.rxLen := rfl
@[simp] theorem State.setSent_txbuf (b : Bool) : (s.setSent b).txbuf = s.txbuf := rfl
@[simp] theorem State.setSent_rxbuf (b : Bool) : (s.setSent b).rxbuf = s.rxbuf := rfl
@[simp] theorem State.setSent_res (b : Bool) : (s.setSent b).res = s.res := rfl
@[simp] theorem State.setSent_transport (b : Bool) : (s.setSent b).transport = s.transport := rfl
@[simp] theorem State.setSent_device (b : Bool) : (s.setSent b).device = s.device := rfl
@[simp] theorem State.setSent_host (b : Bool) : (s.setSent b).host = { s.host with sent := b } := rfl

/-! ### oweSettle -/

@[simp] theorem State.oweSettle_seq : s.oweSettle.seq = s.seq := rfl
@[simp] theorem State.oweSettle_crc : s.oweSettle.crc = s.crc := rfl
@[simp] theorem State.oweSettle_rxLen : s.oweSettle.rxLen = s.rxLen := rfl
@[simp] theorem State.oweSettle_txbuf : s.oweSettle.txbuf = s.txbuf := rfl
@[simp] theorem State.oweSettle_rxbuf : s.oweSettle.rxbuf = s.rxbuf := rfl
@[simp] theorem State.oweSettle_res : s.oweSettle.res = s.res := rfl
@[simp] theorem State.oweSettle_transport : s.oweSettle.transport = s.transport := rfl
@[simp] theorem State.oweSettle_device : s.oweSettle.device = s.device := rfl
@[simp] theorem State.oweSettle_host : s.oweSettle.host = { s.host with settleOwed := true } := rfl

/-! ### resolve -/

@[simp] theorem State.resolve_seq (r : Request) : (s.resolve r).seq = s.seq := rfl
@[simp] theorem State.resolve_crc (r : Request) : (s.resolve r).crc = s.crc := rfl
@[simp] theorem State.resolve_rxLen (r : Request) : (s.resolve r).rxLen = s.rxLen := rfl
@[simp] theorem State.resolve_txbuf (r : Request) : (s.resolve r).txbuf = s.txbuf := rfl
@[simp] theorem State.resolve_rxbuf (r : Request) : (s.resolve r).rxbuf = s.rxbuf := rfl
@[simp] theorem State.resolve_res (r : Request) : (s.resolve r).res = s.res := rfl
@[simp] theorem State.resolve_host (r : Request) :
    (s.resolve r).host = { s.host with exchange := s.host.exchange.filter fun e => e.request != r } := rfl
@[simp] theorem State.resolve_transport (r : Request) : (s.resolve r).transport = s.transport := rfl
@[simp] theorem State.resolve_device (r : Request) : (s.resolve r).device = s.device := rfl

/-! ### noteWrite -/

@[simp] theorem State.noteWrite_seq (r : Option Request) (b : Bool) : (s.noteWrite r b).seq = s.seq := by cases r <;> rfl
@[simp] theorem State.noteWrite_crc (r : Option Request) (b : Bool) : (s.noteWrite r b).crc = s.crc := by cases r <;> rfl
@[simp] theorem State.noteWrite_rxLen (r : Option Request) (b : Bool) : (s.noteWrite r b).rxLen = s.rxLen := by cases r <;> rfl
@[simp] theorem State.noteWrite_txbuf (r : Option Request) (b : Bool) : (s.noteWrite r b).txbuf = s.txbuf := by cases r <;> rfl
@[simp] theorem State.noteWrite_rxbuf (r : Option Request) (b : Bool) : (s.noteWrite r b).rxbuf = s.rxbuf := by cases r <;> rfl
@[simp] theorem State.noteWrite_res (r : Option Request) (b : Bool) : (s.noteWrite r b).res = s.res := by cases r <;> rfl
@[simp] theorem State.noteWrite_transport (r : Option Request) (b : Bool) : (s.noteWrite r b).transport = s.transport := by cases r <;> rfl
@[simp] theorem State.noteWrite_device (r : Option Request) (b : Bool) : (s.noteWrite r b).device = s.device := by cases r <;> rfl
@[simp] theorem State.noteWrite_some_host (r : Request) (b : Bool) :
    (s.noteWrite (some r) b).host = { s.host with asked := some r, exchange := some (s.nextExchange r b), sent := true } :=
  rfl
@[simp] theorem State.noteWrite_none (b : Bool) : s.noteWrite none b = s := rfl
@[simp] theorem State.noteWrite_host_agenda (r : Option Request) (b : Bool) : (s.noteWrite r b).host.agenda = s.host.agenda := by
  cases r <;> rfl
@[simp] theorem State.noteWrite_host_session (r : Option Request) (b : Bool) : (s.noteWrite r b).host.session = s.host.session := by
  cases r <;> rfl
@[simp] theorem State.noteWrite_host_kind (r : Option Request) (b : Bool) : (s.noteWrite r b).host.kind = s.host.kind := by
  cases r <;> rfl
@[simp] theorem State.noteWrite_host_settleOwed (r : Option Request) (b : Bool) : (s.noteWrite r b).host.settleOwed = s.host.settleOwed := by
  cases r <;> rfl
@[simp] theorem State.noteWrite_host_result (r : Option Request) (b : Bool) : (s.noteWrite r b).host.result = s.host.result := by
  cases r <;> rfl
@[simp] theorem State.noteWrite_host_choices (r : Option Request) (b : Bool) : (s.noteWrite r b).host.choices = s.host.choices := by
  cases r <;> rfl
@[simp] theorem State.noteWrite_host_capture (r : Option Request) (b : Bool) : (s.noteWrite r b).host.capture = s.host.capture := by
  cases r <;> rfl

/-! ### popRead -/

@[simp] theorem State.popRead_seq (ms : Nat) : (s.popRead ms).seq = s.seq := rfl
@[simp] theorem State.popRead_crc (ms : Nat) : (s.popRead ms).crc = s.crc := rfl
@[simp] theorem State.popRead_rxLen (ms : Nat) : (s.popRead ms).rxLen = s.rxLen := rfl
@[simp] theorem State.popRead_txbuf (ms : Nat) : (s.popRead ms).txbuf = s.txbuf := rfl
@[simp] theorem State.popRead_rxbuf (ms : Nat) : (s.popRead ms).rxbuf = s.rxbuf := rfl
@[simp] theorem State.popRead_res (ms : Nat) : (s.popRead ms).res = s.res := rfl
@[simp] theorem State.popRead_host (ms : Nat) :
    (s.popRead ms).host =
      { s.host with ms := ms, exchange := s.host.exchange.map (Exchange.afterRead (s.nextRead == .error)) } := rfl
@[simp] theorem State.popRead_transport (ms : Nat) : (s.popRead ms).transport = { s.transport with reads := s.transport.reads.tail } := rfl
@[simp] theorem State.popRead_device (ms : Nat) : (s.popRead ms).device = s.device := rfl

/-! ### resetBlock -/

@[simp] theorem State.resetBlock_seq : (s.resetBlock).seq = 0 := rfl
@[simp] theorem State.resetBlock_crc : (s.resetBlock).crc = 0 := rfl
@[simp] theorem State.resetBlock_rxLen : (s.resetBlock).rxLen = 0 := rfl
@[simp] theorem State.resetBlock_txbuf : (s.resetBlock).txbuf = [] := rfl
@[simp] theorem State.resetBlock_rxbuf : (s.resetBlock).rxbuf = [] := rfl
@[simp] theorem State.resetBlock_res : (s.resetBlock).res = [] := rfl
@[simp] theorem State.resetBlock_host : (s.resetBlock).host = s.host := rfl
@[simp] theorem State.resetBlock_transport : (s.resetBlock).transport = s.transport := rfl
@[simp] theorem State.resetBlock_device : (s.resetBlock).device = s.device := rfl

/-! ### What a chain of updates comes to -/

@[simp] theorem State.setRes_setRes (a b : List Byte) : (s.setRes a).setRes b = s.setRes b := rfl
@[simp] theorem State.setRes_rxBytes (bytes : List Byte) : (s.setRes bytes).rxBytes = s.rxBytes := rfl
@[simp] theorem State.setRes_txBytes (bytes : List Byte) : (s.setRes bytes).txBytes = s.txBytes := rfl
@[simp] theorem State.setRes_status (st : Status) (bytes : List Byte) :
    (s.setRes (st.code :: bytes)).status = st.code := rfl

end Sys2Proof.Machine
end

