-- ==== Sys2Proof/Laws/Ops.lean ====
section
/-! SUPPORT. One lemma per shared operation: what it answers. -/

namespace Sys2Proof.Machine

/-! ### Answering -/

theorem respond_eq (st : Status) (bytes : List Byte) (s : State) : respond st bytes s = .next (s.setRes (st.code :: bytes)) := rfl

theorem raise_eq (st : Status) (s : State) : raise st s = .next (s.setRes [st.code]) := rfl

@[simp] theorem answer_ok (bytes : List Byte) (s : State) : answer (.ok bytes) s = .next (s.setRes (0x00 :: bytes)) := rfl

@[simp] theorem answer_error (st : Status) (s : State) : answer (.error st) s = .next (s.setRes [st.code]) := rfl

/-- The response of a pure operation. -/
def resOf : Except Status (List Byte) → List Byte
  | .ok bytes => 0x00 :: bytes
  | .error st => [st.code]

theorem answer_eq (r : Except Status (List Byte)) (s : State) : answer r s = .next (s.setRes (resOf r)) := by
  cases r <;> rfl

@[simp] theorem andThen_next (s : State) (f : State → Result) : andThen (.next s) f = f s := rfl

theorem andThen_eq_next {r : Result} {f : State → Result} {t : State} (h : andThen r f = .next t) :
    ∃ s, r = .next s ∧ f s = .next t := by
  cases r with
  | next s => exact ⟨s, rfl, h⟩
  | fault e => cases h
  | refused e => cases h

/-! ### Building a frame, loading a response -/

theorem sendFrame_eq (cmd sub : Byte) (args : List Byte) (s : State) :
    sendFrame cmd sub args s =
      .next (((s.setTx (frame cmd s.seq sub args)).setSeq (s.seq + 1)).setRes (0x00 :: frame cmd s.seq sub args)) := rfl

/-- The TX port presents the bytes written, if they are 49. -/
theorem txBytes_setTx (s : State) (f : List Byte) (h : f.length = 49) : (s.setTx f).txBytes = f := by
  have := Memory.bytes_ofBytes f
  rwa [h] at this

theorem loadResponse_of_le {bytes : List Byte} (h : bytes.length ≤ Config.respMax) (s : State) :
    loadResponse bytes s = .next ((s.setRx bytes).setRes [0x00]) := by
  simp [loadResponse, Nat.not_lt.2 h, respond_eq, Status.code]

theorem loadResponse_of_gt {bytes : List Byte} (h : Config.respMax < bytes.length) (s : State) :
    loadResponse bytes s = .next (s.setRes [0x11]) := by
  simp [loadResponse, h, raise_eq, Status.code]

/-- What loading a response can come to. -/
theorem loadResponse_next (bytes : List Byte) (s : State) :
    (bytes.length ≤ Config.respMax ∧ loadResponse bytes s = .next ((s.setRx bytes).setRes [0x00])) ∨
    (Config.respMax < bytes.length ∧ loadResponse bytes s = .next (s.setRes [0x11])) := by
  rcases Nat.lt_or_ge Config.respMax bytes.length with h | h
  · exact .inr ⟨h, loadResponse_of_gt h s⟩
  · exact .inl ⟨h, loadResponse_of_le h s⟩

/-! ### Little-endian results -/

theorem word16_eq (v : Word) : word16 v = [v.extractLsb' 0 8, v.extractLsb' 8 8] := leBytes_word v

theorem word32_eq (v : F32) :
    word32 v = [v.extractLsb' 0 8, v.extractLsb' 8 8, v.extractLsb' 16 8, v.extractLsb' 24 8] := leBytes_offset v

end Sys2Proof.Machine
end

