-- ==== Sys2Proof/Laws/Exec.lean ====
section
/-! SUPPORT. What any instruction can do to each part of the state, said once (`Effect`), and the same of the transport's moves. -/

namespace Sys2Proof.Machine

/-- What an instruction can have done to each part of the state but `seq`, `crc` and the RES port. -/
structure Effect (s t : State) : Prop where
  /-- `TXBUF` is as it was, or a command frame has been written whole. -/
  tx : t.txbuf = s.txbuf ∨ ∃ f i, f.length = 49 ∧ decode .tx f = some i ∧ t.txbuf = Memory.ofBytes f
  /-- `RXBUF` and `rx_len` are as they were, or a response has been written whole. -/
  rx : (t.rxbuf = s.rxbuf ∧ t.rxLen = s.rxLen) ∨
    ∃ bytes : List Byte, bytes.length ≤ Config.respMax ∧ t.rxbuf = Memory.ofBytes bytes ∧ t.rxLen = bytes.length
  /-- Of the host only the settle delay owed can have changed. -/
  host : t.host = s.host ∨ t.host = { s.host with settleOwed := true }
  transport : t.transport = s.transport
  /-- `FLASH` is as it was, unknown, or written inside the flash map. -/
  flash : t.device.flash = s.device.flash ∨ t.device.flash = [] ∨
    ∃ offset data, writeKnown s offset data = true ∧
      t.device.flash = Memory.writeBytes s.device.flash offset.toNat data

theorem Effect.refl (s : State) : Effect s s := ⟨.inl rfl, .inl ⟨rfl, rfl⟩, .inl rfl, rfl, .inl rfl⟩

theorem Effect.setRes (s : State) (bytes : List Byte) : Effect s (s.setRes bytes) :=
  ⟨.inl rfl, .inl ⟨rfl, rfl⟩, .inl rfl, rfl, .inl rfl⟩

theorem Effect.oweSettle {s t : State} (e : Effect s t) : Effect s t.oweSettle := by
  refine ⟨e.tx, e.rx, ?_, e.transport, e.flash⟩
  obtain hh | hh := e.host <;> exact .inr (by simp [hh])

/-- Building a frame ends in a next state, and only that. -/
theorem sendFrame_effect {cmd sub : Byte} {args : List Byte} {s : State} {i : Instr} (hl : args.length ≤ 46)
    (hd : decode .tx (frame cmd s.seq sub args) = some i) : ∃ t, sendFrame cmd sub args s = .next t ∧ Effect s t :=
  ⟨_, sendFrame_eq cmd sub args s, .inr ⟨_, i, frame_length cmd s.seq sub args hl, hd, rfl⟩, .inl ⟨rfl, rfl⟩, .inl rfl, rfl, .inl rfl⟩

theorem loadResponse_effect (bytes : List Byte) (s : State) : ∃ t, loadResponse bytes s = .next t ∧ Effect s t := by
  obtain ⟨hl, h⟩ | ⟨-, h⟩ := loadResponse_next bytes s
  · exact ⟨_, h, .inl rfl, .inr ⟨bytes, hl, rfl, rfl⟩, .inl rfl, rfl, .inl rfl⟩
  · exact ⟨_, h, .setRes s _⟩

theorem answer_effect (r : Except Status (List Byte)) (s : State) : ∃ t, answer r s = .next t ∧ Effect s t :=
  ⟨_, answer_eq r s, .setRes s _⟩

theorem respond_effect (st : Status) (bytes : List Byte) (s : State) : ∃ t, respond st bytes s = .next t ∧ Effect s t :=
  ⟨_, respond_eq st bytes s, .setRes s _⟩

theorem setCrc_effect (c : Byte) (bytes : List Byte) (s : State) :
    ∃ t, respond .ok bytes (s.setCrc c) = .next t ∧ Effect s t :=
  ⟨_, respond_eq .ok bytes _, .inl rfl, .inl ⟨rfl, rfl⟩, .inl rfl, rfl, .inl rfl⟩

theorem receive_effect {r : Request} {d : Device} {s : State} (h : d.flash = s.device.flash) :
    ∃ t, receive r d s = .next t ∧ Effect s t :=
  ⟨_, rfl, .inl rfl, .inl ⟨rfl, rfl⟩, .inl rfl, rfl, .inl h⟩

theorem execFrameSpiw_effect (cmd : Byte) (timer : BitVec 4) (offset : Offset) (data : List Byte) (s : State) :
    ∃ t, execFrameSpiw cmd timer offset data s = .next t ∧ Effect s t := by
  refine ⟨_, rfl, .inl rfl, .inl ⟨rfl, rfl⟩, .inl rfl, rfl, ?_⟩
  by_cases h : writeKnown s offset data = true
  · exact .inr (.inr ⟨offset, data, h, by simp [writeFlash, h]⟩)
  · exact .inr (.inl (by simp [writeFlash, h]))

theorem execRespSpiw_effect (head rest : List Byte) (s : State) :
    ∃ t, execRespSpiw head rest s = .next t ∧ Effect s t := by
  obtain ⟨t, h, e⟩ := loadResponse_effect (head ++ leBytes 2 Config.ackSpiw.toNat ++ rest) s
  exact ⟨t.oweSettle, by rw [execRespSpiw, respArrives, h, andThen_next], e.oweSettle⟩

/-- Every instruction answers a next state, and changes no more than `Effect` says. -/
theorem exec_effect (i : Instr) (s : State) : ∃ t, exec i s = .next t ∧ Effect s t := by
  cases i with
  | crc8Init => exact setCrc_effect _ _ s
  | crc8Upd b => exact setCrc_effect _ _ s
  | crc8Get => exact respond_effect _ _ s
  | crc8Buf bytes => exact setCrc_effect _ _ s
  | seqRst => exact ⟨_, rfl, .inl rfl, .inl ⟨rfl, rfl⟩, .inl rfl, rfl, .inl rfl⟩
  | encInfo cmd => exact sendFrame_effect (by simp) (decode_frame_info cmd s.seq)
  | encMode cmd mode => exact sendFrame_effect (by simp) (decode_frame_mode cmd s.seq mode)
  | encSpir cmd offset size => exact sendFrame_effect (by simp [spiArgs_length]) (decode_frame_spir cmd s.seq offset size)
  | encSpiw cmd offset data =>
    by_cases h : data.length > Config.wdataMax
    · simp only [exec, execEncSpiw, h, if_true]
      exact respond_effect _ _ s
    · simp only [exec, execEncSpiw, h, if_false]
      have hl : data.length ≤ 29 := Nat.le_of_not_lt h
      exact sendFrame_effect (by rw [spiwArgs_length]; omega) (decode_frame_spiw cmd s.seq offset data hl)
  | rxLoad bytes => exact loadResponse_effect bytes s
  | decAck => exact answer_effect _ s
  | decMatch exp => exact answer_effect _ s
  | decInfo => exact answer_effect _ s
  | decSpir offset len =>
    simp only [exec, execDecSpir, decSpirWith]
    split
    · split <;> exact respond_effect _ _ s
    · exact respond_effect _ _ s
  | triPack a b =>
    simp only [exec, execTriPack]
    split <;> exact respond_effect _ _ s
  | triUnpk t0 t1 t2 => exact respond_effect _ _ s
  | smpUnpk => exact answer_effect _ s
  | norm rawX rawY xmin xc xmax ymin yc ymax =>
    simp only [exec, execNorm]
    split <;> exact respond_effect _ _ s
  | frameInfo cmd timer => exact receive_effect rfl
  | frameMode cmd timer mode => exact receive_effect rfl
  | frameSpir cmd timer offset size => exact receive_effect rfl
  | frameSpiw cmd timer offset data => exact execFrameSpiw_effect cmd timer offset data s
  | respInfo head rest => exact loadResponse_effect _ s
  | respSpiw head rest => exact execRespSpiw_effect head rest s
  | respSerial head rest => exact loadResponse_effect _ s

/-- What an instruction answers is a next state with this effect. -/
theorem Effect.of_exec {i : Instr} {s t : State} (h : exec i s = .next t) : Effect s t := by
  obtain ⟨u, hu, e⟩ := exec_effect i s
  rw [hu] at h
  cases h
  exact e

/-- An operation of the block leaves the host as it was. -/
theorem exec_cmd_host {i : Instr} {s t : State} (hp : i.port = .cmd) (h : exec i s = .next t) : t.host = s.host := by
  cases i <;> simp only [Instr.port, reduceCtorEq] at hp
  all_goals
    simp only [exec, execCrc8Init, execCrc8Upd, execCrc8Get, execCrc8Buf, execSeqRst, execEncInfo, execEncMode, execEncSpir,
      execEncSpiw, execRxLoad, execDecAck, execDecMatch, execDecInfo, execDecSpir, execTriPack, execTriUnpk, execSmpUnpk, execNorm,
      sendFrame, loadResponse, decSpirWith, raise, answer_eq] at h
  all_goals first
    | (cases h; rfl)
    | (split at h <;> first | (cases h; rfl) | (split at h <;> cases h <;> rfl))

/-! ### The moves of the host on the ports -/

/-- A frame is a second one outstanding if there is an exchange that it may not follow. -/
theorem outstanding_iff (s : State) (r : Request) :
    s.outstanding r = true ↔ ∃ e, s.host.exchange = some e ∧ s.mayFollow e r = false := by
  cases h : s.host.exchange <;> simp [State.outstanding, h]

/-- With no exchange unresolved any frame may be written. -/
theorem outstanding_none {s : State} (h : s.host.exchange = none) (r : Request) : s.outstanding r = false := by
  simp [State.outstanding, h]

/-- What `readsUsedUp` asks of the bound. -/
theorem readsUsedUp_iff (bound : Option Nat) (reads : Nat) : readsUsedUp bound reads = true ↔ ∃ n, bound = some n ∧ n ≤ reads := by
  cases bound <;> simp [readsUsedUp]

/-- A filtered option is as it was or empty. -/
theorem filter_cases (p : Exchange → Bool) (x : Option Exchange) : x.filter p = none ∨ x.filter p = x := by
  cases x with
  | none => exact .inl rfl
  | some e => by_cases h : p e = true <;> simp [h]

/-- The exchange after one has been resolved is none, or is as it was. -/
theorem resolve_cases (s : State) (r : Request) : (s.resolve r).host.exchange = none ∨ (s.resolve r).host.exchange = s.host.exchange :=
  filter_cases _ _

/-- A host that has looked at an answer may have resolved its exchange, may owe the settle delay, and may have a fresh frame to send. -/
theorem conclude_cases (s : State) (i : Instr) : ∃ x b, (x = none ∨ x = s.host.exchange) ∧
    (s.conclude i = (s.setExchange x).setSent b ∨ s.conclude i = (s.oweSettle.setExchange x).setSent b) := by
  refine ⟨_, s.host.sent && !buildsFrame i s, filter_cases (fun e => !(0 < e.reads && endsExchange e.request i s)) s.host.exchange, ?_⟩
  by_cases h : findsSpiwAck i s = true
  · exact .inr (by simp [State.conclude, State.setExchange, State.setSent, State.setHost, State.oweSettle, h])
  · exact .inl (by simp [State.conclude, State.setExchange, State.setSent, State.setHost, h])

/-- A transaction goes on as an instruction's effect, to which the settle delay owed can belong, and then the exchange may be resolved
and the frame in `TXBUF` be a fresh one. -/
theorem issue_effect (ct : List Byte) (s : State) :
    ∃ u x b, issue ct s = .next ((u.setExchange x).setSent b) ∧ Effect s u ∧ (x = none ∨ x = u.host.exchange) := by
  unfold issue
  split
  · rename_i i _
    obtain ⟨u, hu, e⟩ := exec_effect i s
    obtain ⟨x, b, hx, h | h⟩ := conclude_cases u i
    · exact ⟨u, x, b, by rw [hu, andThen_next, h], e, hx⟩
    · exact ⟨u.oweSettle, x, b, by rw [hu, andThen_next, h], e.oweSettle, hx⟩
  · obtain ⟨u, hu, e⟩ := respond_effect .illegalOp [] s
    exact ⟨u, u.host.exchange, u.host.sent, hu, e, .inr rfl⟩

theorem receiveBytes_effect (bytes : List Byte) (s : State) : ∃ t, receiveBytes bytes s = .next t ∧ Effect s t := by
  unfold receiveBytes
  split <;> exact exec_effect _ s

/-- Bytes that are no frame are refused for neither reason. -/
theorem writeRefused_none {s : State} (hd : decode .tx s.txBytes = none) : s.writeRefused = none := by
  simp [State.writeRefused, State.asking, hd]

/-- When the host does not write a frame, and why. -/
theorem writeRefused_eq_some {s : State} {e : Refusal} : s.writeRefused = some e ↔ ∃ r, s.asking = some r ∧
    (s.host.sent = true ∧ e = .frameSent ∨ s.host.sent = false ∧ s.outstanding r = true ∧ e = .frameOutstanding) := by
  unfold State.writeRefused
  cases s.asking with
  | none => simp
  | some r =>
    by_cases hs : s.host.sent = true
    · simp [hs, @eq_comm _ e]
    · by_cases ho : s.outstanding r = true <;> simp [hs, ho, @eq_comm _ e]

/-- With a session, a fresh frame the device takes, no other outstanding, is an instruction, and then the exchange is noted. -/
theorem transportWrite_taken {s : State} {i : Instr} (hs : s.host.session = true) (ho : s.writeRefused = none)
    (ht : s.nextWrite.taken = true) (hd : decode .tx s.txBytes = some i) :
    transportWrite s = andThen (exec i s.popWrite) fun t => .next (t.noteWrite s.asking s.nextWrite.complete) := by
  simp [transportWrite, frameArrives, hs, ho, ht, hd]

/-- With a session, bytes the device takes and that are no frame are refused. -/
theorem transportWrite_unknown {s : State} (hs : s.host.session = true) (ht : s.nextWrite.taken = true)
    (hd : decode .tx s.txBytes = none) : transportWrite s = .refused .unknownFrame := by
  simp [transportWrite, frameArrives, writeRefused_none hd, hs, ht, hd, andThen]

/-- With a session, of a fresh frame that is lost, no other outstanding, only the exchange is noted. -/
theorem transportWrite_lost {s : State} (hs : s.host.session = true) (ho : s.writeRefused = none)
    (ht : s.nextWrite.taken = false) : transportWrite s = .next (s.popWrite.noteWrite s.asking s.nextWrite.complete) := by
  simp [transportWrite, frameArrives, hs, ho, ht]

/-- With a session, a frame that was sent before, or a second one outstanding, is refused. -/
theorem transportWrite_refused {s : State} {e : Refusal} (hs : s.host.session = true) (he : s.writeRefused = some e) :
    transportWrite s = .refused e := by
  simp [transportWrite, hs, he]

/-- Without a session no write and no read goes on. -/
theorem transportWrite_noSession {s : State} (hs : s.host.session = false) : transportWrite s = .fault .noSession := by
  simp [transportWrite, hs]

theorem transportRead_noSession {ms : Nat} {s : State} (hs : s.host.session = false) :
    transportRead ms s = .fault .noSession := by
  simp [transportRead, hs]

/-- A write to the transport that goes on is an instruction's effect on the state with one answer used up, the frame being a fresh one
and no other outstanding, and then the note of the exchange. -/
theorem transportWrite_effect {s t : State} (h : transportWrite s = .next t) :
    s.host.session = true ∧ s.writeRefused = none ∧ ∃ u, Effect s.popWrite u ∧ t = u.noteWrite s.asking s.nextWrite.complete := by
  unfold transportWrite at h
  split at h
  · rename_i hs
    split at h
    · cases h
    rename_i ho
    obtain ⟨u, hu, ht⟩ := andThen_eq_next h
    refine ⟨hs, ho, u, ?_, by cases ht; rfl⟩
    unfold frameArrives at hu
    split at hu
    · split at hu
      · exact .of_exec hu
      · cases hu
    · cases hu
      exact .refl _
  · cases h

/-- With a session, what a read brings is loaded. -/
theorem transportRead_arriving {ms : Nat} {s : State} {bytes : List Byte} (hs : s.host.session = true)
    (ha : s.arriving = some bytes) : transportRead ms s = receiveBytes bytes (s.popRead ms) := by
  simp [transportRead, hs, ha]

/-- With a session, of a read that failed the block is told nothing. -/
theorem transportRead_failed {ms : Nat} {s : State} (hs : s.host.session = true) (ha : s.arriving = none) :
    transportRead ms s = .next (s.popRead ms) := by
  simp [transportRead, hs, ha]

/-- With a session every read goes on, as an instruction's effect on the state with one answer used up. -/
theorem transportRead_next {ms : Nat} {s : State} (hs : s.host.session = true) :
    ∃ t, transportRead ms s = .next t ∧ Effect (s.popRead ms) t := by
  cases ha : s.arriving with
  | some bytes => simpa only [transportRead_arriving hs ha] using receiveBytes_effect bytes (s.popRead ms)
  | none => exact ⟨_, transportRead_failed hs ha, .refl _⟩

/-- A read from the transport that goes on had a session. -/
theorem transportRead_effect {ms : Nat} {s t : State} (h : transportRead ms s = .next t) :
    s.host.session = true ∧ Effect (s.popRead ms) t := by
  cases hs : s.host.session with
  | true =>
    obtain ⟨u, hu, e⟩ := transportRead_next (ms := ms) hs
    rw [hu] at h
    cases h
    exact ⟨rfl, e⟩
  | false =>
    rw [transportRead_noSession hs] at h
    cases h

/-- One step runs the task at the head of the agenda, taken off it. -/
theorem step_eq_runTask {s : State} {t : Task} {rest : List Task} (h : s.host.agenda = t :: rest) :
    step s = runTask t { s with host := { s.host with agenda := rest } } := by
  unfold step
  rw [h]
  simp [State.popTask, State.setHost, h]

end Sys2Proof.Machine
end

