-- ==== Sys2Proof/Laws/PerInstr.lean ====
section
/-! SUPPORT. One lemma per constructor: how long the encoding of a well-formed instruction is (R60, R61, R73). -/

namespace Sys2Proof.Laws.EncodedLength

/-- The length of an encoding: 49 bytes of a frame (R60), at least 15 and at most 0x170 of a response of the table (R61, R66), the
length R73 gives a transaction. -/
def Statement (i : Instr) : Prop :=
  i.wf = true →
    match i.port with
    | .tx => (encode i).length = 49
    | .rx => 15 ≤ (encode i).length ∧ (encode i).length ≤ 0x170
    | .cmd => ∃ n, n < 2 ^ 16 ∧ cmdLength ((encode i).headD 0) n = some (encode i).length

theorem crc8Init : Statement .crc8Init := fun _ => ⟨0, by decide, rfl⟩

theorem crc8Upd (b : Byte) : Statement (.crc8Upd b) := fun _ => ⟨0, by decide, rfl⟩

theorem crc8Get : Statement .crc8Get := fun _ => ⟨0, by decide, rfl⟩

theorem crc8Buf (bytes : List Byte) : Statement (.crc8Buf bytes) := fun h =>
  ⟨bytes.length, of_decide_eq_true h, by simp [encode, counted, cmdLength]; omega⟩

theorem seqRst : Statement .seqRst := fun _ => ⟨0, by decide, rfl⟩

theorem encInfo (cmd : Byte) : Statement (.encInfo cmd) := fun _ => ⟨0, by decide, rfl⟩

theorem encMode (cmd mode : Byte) : Statement (.encMode cmd mode) := fun _ => ⟨0, by decide, rfl⟩

theorem encSpir (cmd : Byte) (offset : Offset) (size : Word) : Statement (.encSpir cmd offset size) := fun _ =>
  ⟨0, by decide, by simp [encode, cmdLength]⟩

theorem encSpiw (cmd : Byte) (offset : Offset) (data : List Byte) : Statement (.encSpiw cmd offset data) := fun h =>
  ⟨data.length, of_decide_eq_true h, by simp [encode, counted, cmdLength]; omega⟩

theorem rxLoad (bytes : List Byte) : Statement (.rxLoad bytes) := fun h =>
  ⟨bytes.length, of_decide_eq_true h, by simp [encode, counted, cmdLength]; omega⟩

theorem decAck : Statement .decAck := fun _ => ⟨0, by decide, rfl⟩

theorem decMatch (exp : Word) : Statement (.decMatch exp) := fun _ => ⟨0, by decide, by simp [encode, cmdLength]⟩

theorem decInfo : Statement .decInfo := fun _ => ⟨0, by decide, rfl⟩

theorem decSpir (offset : Offset) (len : Word) : Statement (.decSpir offset len) := fun _ =>
  ⟨0, by decide, by simp [encode, cmdLength]⟩

theorem triPack (a b : Word) : Statement (.triPack a b) := fun _ => ⟨0, by decide, by simp [encode, cmdLength]⟩

theorem triUnpk (t0 t1 t2 : Byte) : Statement (.triUnpk t0 t1 t2) := fun _ => ⟨0, by decide, rfl⟩

theorem smpUnpk : Statement .smpUnpk := fun _ => ⟨0, by decide, rfl⟩

theorem norm (rawX rawY xmin xc xmax ymin yc ymax : Word) : Statement (.norm rawX rawY xmin xc xmax ymin yc ymax) := fun _ =>
  ⟨0, by decide, by simp [encode, cmdLength]⟩

theorem frameInfo (cmd : Byte) (timer : BitVec 4) : Statement (.frameInfo cmd timer) := fun _ =>
  frame_length cmd timer _ _ (by simp)

theorem frameMode (cmd : Byte) (timer : BitVec 4) (mode : Byte) : Statement (.frameMode cmd timer mode) := fun _ =>
  frame_length cmd timer _ _ (by simp)

theorem frameSpir (cmd : Byte) (timer : BitVec 4) (offset : Offset) (size : Word) :
    Statement (.frameSpir cmd timer offset size) := fun _ =>
  frame_length cmd timer _ _ (by simp [spiArgs_length])

theorem frameSpiw (cmd : Byte) (timer : BitVec 4) (offset : Offset) (data : List Byte) :
    Statement (.frameSpiw cmd timer offset data) := fun h =>
  frame_length cmd timer _ _ (by
    have hd : data.length ≤ 29 := of_decide_eq_true h
    rw [spiwArgs_length]
    omega)

/-- The bounds of a response that `respFits` accepts. -/
theorem resp_length {head rest : List Byte} (code : Word) (h : respFits head rest = true) :
    15 ≤ (head ++ leBytes 2 code.toNat ++ rest).length ∧ (head ++ leBytes 2 code.toNat ++ rest).length ≤ 0x170 := by
  simp only [respFits, Bool.and_eq_true, beq_iff_eq, decide_eq_true_eq] at h
  simp only [Config.ackPos, Config.respMax] at h
  simp only [List.length_append, leBytes_length]
  omega

theorem respInfo (head rest : List Byte) : Statement (.respInfo head rest) := resp_length Config.ackInfo

theorem respSpiw (head rest : List Byte) : Statement (.respSpiw head rest) := resp_length Config.ackSpiw

theorem respSerial (head rest : List Byte) : Statement (.respSerial head rest) := resp_length Config.ackSerial

end Sys2Proof.Laws.EncodedLength
end

