-- ==== Sys2Proof/Machine/Assembly.lean ====
section
/-! DEFINITION. How the spec writes an operation (R81): the mnemonic, a space, the operands separated by commas, numbers in hex, a
byte string in brackets. The rows FRAME.* and RESP.* are labels of the table (R83) and are written as their name. -/

namespace Sys2Proof

/-- One hex digit. -/
def hexDigit (n : Nat) : Char := "0123456789ABCDEF".toList.getD (n % 16) '0'

/-- The last `k` hex digits of a number. -/
def hexDigits : Nat → Nat → List Char
  | 0, _ => []
  | k + 1, n => hexDigits k (n / 16) ++ [hexDigit n]

/-- A number of `k` hex digits. -/
def hexNumber (k n : Nat) : String := "0x" ++ String.ofList (hexDigits k n)

/-- A byte string in brackets. -/
def hexString (bytes : List Byte) : String :=
  "[" ++ String.intercalate " " (bytes.map fun b => String.ofList (hexDigits 2 b.toNat)) ++ "]"

/-- The mnemonic of the opcode table. -/
def Instr.mnemonic : Instr → String
  | .crc8Init => "CRC8.INIT"
  | .crc8Upd _ => "CRC8.UPD"
  | .crc8Get => "CRC8.GET"
  | .crc8Buf _ => "CRC8.BUF"
  | .seqRst => "SEQ.RST"
  | .encInfo _ => "ENC.INFO"
  | .encMode _ _ => "ENC.MODE"
  | .encSpir _ _ _ => "ENC.SPIR"
  | .encSpiw _ _ _ => "ENC.SPIW"
  | .rxLoad _ => "RX.LOAD"
  | .decAck => "DEC.ACK"
  | .decMatch _ => "DEC.MATCH"
  | .decInfo => "DEC.INFO"
  | .decSpir _ _ => "DEC.SPIR"
  | .triPack _ _ => "TRI.PACK"
  | .triUnpk _ _ _ => "TRI.UNPK"
  | .smpUnpk => "SMP.UNPK"
  | .norm _ _ _ _ _ _ _ _ => "NORM"
  | .frameInfo _ _ => "FRAME.INFO"
  | .frameMode _ _ _ => "FRAME.MODE"
  | .frameSpir _ _ _ _ => "FRAME.SPIR"
  | .frameSpiw _ _ _ _ => "FRAME.SPIW"
  | .respInfo _ _ => "RESP.INFO"
  | .respSpiw _ _ => "RESP.SPIW"
  | .respSerial _ _ => "RESP.SERIAL"

/-- The operands of an operation, each as it is written. -/
def Instr.operands : Instr → List String
  | .crc8Init => []
  | .crc8Upd b => [hexNumber 2 b.toNat]
  | .crc8Get => []
  | .crc8Buf bytes => [hexNumber 4 bytes.length, hexString bytes]
  | .seqRst => []
  | .encInfo cmd => [hexNumber 2 cmd.toNat]
  | .encMode cmd mode => [hexNumber 2 cmd.toNat, hexNumber 2 mode.toNat]
  | .encSpir cmd offset size => [hexNumber 2 cmd.toNat, hexNumber 8 offset.toNat, hexNumber 4 size.toNat]
  | .encSpiw cmd offset data =>
    [hexNumber 2 cmd.toNat, hexNumber 8 offset.toNat, hexNumber 4 data.length, hexString data]
  | .rxLoad bytes => [hexNumber 4 bytes.length, hexString bytes]
  | .decAck => []
  | .decMatch exp => [hexNumber 4 exp.toNat]
  | .decInfo => []
  | .decSpir offset len => [hexNumber 8 offset.toNat, hexNumber 4 len.toNat]
  | .triPack a b => [hexNumber 4 a.toNat, hexNumber 4 b.toNat]
  | .triUnpk t0 t1 t2 => [hexNumber 2 t0.toNat, hexNumber 2 t1.toNat, hexNumber 2 t2.toNat]
  | .smpUnpk => []
  | .norm rawX rawY xmin xc xmax ymin yc ymax =>
    [rawX, rawY, xmin, xc, xmax, ymin, yc, ymax].map fun v => hexNumber 4 v.toNat
  | .frameInfo _ _ => []
  | .frameMode _ _ _ => []
  | .frameSpir _ _ _ _ => []
  | .frameSpiw _ _ _ _ => []
  | .respInfo _ _ => []
  | .respSpiw _ _ => []
  | .respSerial _ _ => []

/-- An operation as the spec writes it (R81). -/
def Instr.asm (i : Instr) : String :=
  match i.operands with
  | [] => i.mnemonic
  | ops => i.mnemonic ++ " " ++ String.intercalate ", " ops

end Sys2Proof
end

