-- ==== Sys2Proof/Tests/Slice0.lean ====
section
/-! SUPPORT. Tests, each on one step: ill-formed terms refused, words decoded, the spec's own vectors (95_test_vectors.md), and for
every statement with hypotheses a state and operands that meet them. -/

namespace Sys2Proof.Tests

open Sys2Proof.Machine

/-- What stands on the RES port after an instruction. -/
def resAfter (i : Instr) (s : State) : List Byte :=
  match exec i s with
  | .next t => t.res
  | _ => []

/-- Does a result of the state after an instruction have this property? -/
def after (i : Instr) (s : State) (p : State → Bool) : Bool :=
  match exec i s with
  | .next t => p t
  | _ => false

/-- Does the state after one step have this property? -/
def stepped (s : State) (p : State → Bool) : Bool :=
  match step s with
  | .next t => p t
  | _ => false

/-- The reset state with these bytes received. -/
def received (bytes : List Byte) : State := State.reset.setRx bytes

/-- The reset state with this agenda. -/
def planned (agenda : List Task) : State := State.reset.setHost { State.reset.host with agenda := agenda }

/-- `n` zero bytes. -/
def zeros (n : Nat) : List Byte := List.replicate n 0

/-! ### WellFormed: an ill-formed term for each check -/

theorem countFits_full : countFits (zeros 65536) = false := by
  unfold countFits zeros
  rw [List.length_replicate]
  decide

theorem test_wf_crc8Buf_too_long : Instr.wf (.crc8Buf (zeros 65536)) = false := countFits_full
theorem test_wf_encSpiw_too_long : Instr.wf (.encSpiw 1 0x6089 (zeros 65536)) = false := countFits_full
theorem test_wf_rxLoad_too_long : Instr.wf (.rxLoad (zeros 65536)) = false := countFits_full
theorem test_wf_frameSpiw_too_long : Instr.wf (.frameSpiw 1 0 0x6089 (zeros 30)) = false := by decide
theorem test_wf_respInfo_short_head : Instr.wf (.respInfo (zeros 12) []) = false := by decide
theorem test_wf_respSpiw_long_head : Instr.wf (.respSpiw (zeros 14) []) = false := by decide
theorem test_wf_respSerial_too_long : Instr.wf (.respSerial (zeros 13) (zeros 354)) = false := by decide +kernel
theorem test_wf_respInfo_longest : Instr.wf (.respInfo (zeros 13) (zeros 353)) = true := by decide +kernel

/-! ### Decoding: a word of every row, from the tables of 30_encoding.md -/

theorem test_decode_crc8Init : decode .cmd [0x10] = some .crc8Init := by decide
theorem test_decode_crc8Upd : decode .cmd [0x11, 0x5A] = some (.crc8Upd 0x5A) := by decide
theorem test_decode_crc8Get : decode .cmd [0x12] = some .crc8Get := by decide
theorem test_decode_crc8Buf : decode .cmd [0x13, 0x03, 0x00, 0xAE, 0x40, 0xE1] = some (.crc8Buf [0xAE, 0x40, 0xE1]) := by decide
theorem test_decode_seqRst : decode .cmd [0x20] = some .seqRst := by decide
theorem test_decode_encInfo : decode .cmd [0x30, 0x01] = some (.encInfo 0x01) := by decide
theorem test_decode_encMode : decode .cmd [0x31, 0x01, 0x30] = some (.encMode 0x01 0x30) := by decide
/-- E11: the byte order of `offset` and `size`. -/
theorem test_decode_encSpir :
    decode .cmd [0x32, 0xFF, 0x78, 0x56, 0x34, 0x12, 0xCD, 0xAB] = some (.encSpir 0xFF 0x12345678 0xABCD) := by decide
theorem test_decode_encSpiw :
    decode .cmd [0x33, 0x01, 0x89, 0x60, 0x00, 0x00, 0x03, 0x00, 0xAE, 0x40, 0xE1] =
      some (.encSpiw 0x01 0x6089 [0xAE, 0x40, 0xE1]) := by decide
theorem test_decode_rxLoad : decode .cmd [0x40, 0x02, 0x00, 0xAA, 0xBB] = some (.rxLoad [0xAA, 0xBB]) := by decide
theorem test_decode_decAck : decode .cmd [0x41] = some .decAck := by decide
theorem test_decode_decMatch : decode .cmd [0x42, 0x80, 0x11] = some (.decMatch 0x1180) := by decide
theorem test_decode_decInfo : decode .cmd [0x43] = some .decInfo := by decide
theorem test_decode_decSpir :
    decode .cmd [0x44, 0x3D, 0x60, 0x01, 0x00, 0x09, 0x01] = some (.decSpir 0x1603D 0x109) := by decide
theorem test_decode_triPack : decode .cmd [0x50, 0xAE, 0x00, 0x14, 0x0E] = some (.triPack 0x0AE 0xE14) := by decide
theorem test_decode_triUnpk : decode .cmd [0x51, 0x12, 0x34, 0x56] = some (.triUnpk 0x12 0x34 0x56) := by decide
theorem test_decode_smpUnpk : decode .cmd [0x52] = some .smpUnpk := by decide
theorem test_decode_norm :
    decode .cmd [0x60, 0x01, 0x0B, 0x02, 0x08, 0x03, 0x02, 0x04, 0x08, 0x05, 0x0E, 0x06, 0x02, 0x07, 0x08, 0x08, 0x0E] =
      some (.norm 0xB01 0x802 0x203 0x804 0xE05 0x206 0x807 0xE08) := by decide
/-- E1. -/
theorem test_decode_frameInfo : decode .tx ([0x01, 0x00, 0x02] ++ zeros 46) = some (.frameInfo 0x01 0) := by decide
/-- E12. -/
theorem test_decode_frameMode : decode .tx ([0x80, 0x03, 0x03, 0x3F] ++ zeros 45) = some (.frameMode 0x80 3 0x3F) := by decide
/-- E3. -/
theorem test_decode_frameSpir :
    decode .tx ([0x01, 0x02, 0x10, 0x3D, 0x60, 0x00, 0x00, 0x09, 0x00] ++ zeros 40) = some (.frameSpir 0x01 2 0x603D 9) := by
  decide
/-- E8. -/
theorem test_decode_frameSpiw :
    decode .tx ([0x01, 0x0F, 0x11, 0x89, 0x60, 0x00, 0x00, 0x03, 0x00] ++ zeros 7 ++ [0xAE, 0x40, 0xE1] ++ zeros 30) =
      some (.frameSpiw 0x01 0xF 0x6089 [0xAE, 0x40, 0xE1]) := by decide
theorem test_decode_respInfo : decode .rx (zeros 13 ++ [0x82, 0x02, 0x03]) = some (.respInfo (zeros 13) [0x03]) := by decide
theorem test_decode_respSpiw : decode .rx (zeros 13 ++ [0x80, 0x11]) = some (.respSpiw (zeros 13) []) := by decide
theorem test_decode_respSerial : decode .rx (zeros 13 ++ [0x90, 0x10]) = some (.respSerial (zeros 13) []) := by decide

/-- P5 and R75: a reserved select byte, a length that is not the operation's, an empty transaction. -/
theorem test_decode_rejects :
    decode .cmd [0x00] = none ∧ decode .cmd [0x14] = none ∧ decode .cmd [0x61] = none ∧ decode .cmd [0xFF] = none ∧
      decode .cmd [0x30] = none ∧ decode .cmd [0x10, 0x00] = none ∧ decode .cmd [0x40, 0x03, 0x00, 0x01, 0x02] = none ∧
      decode .cmd [] = none := by decide
/-- R64, R76: a timer byte with a high nibble, an unknown subcommand, a byte that is not zero where R60 says zero. -/
theorem test_decode_rejects_frames :
    decode .tx ([0x01, 0x10, 0x02] ++ zeros 46) = none ∧ decode .tx ([0x01, 0x00, 0x04] ++ zeros 46) = none ∧
      decode .tx ([0x01, 0x00, 0x02] ++ zeros 45 ++ [0x01]) = none ∧ decode .tx (zeros 49) = none ∧
      decode .tx ([0x01, 0x00, 0x02] ++ zeros 45) = none := by decide
theorem test_decode_rejects_responses :
    decode .rx (zeros 15) = none ∧ decode .rx (zeros 13 ++ [0x82]) = none ∧ decode .rx (zeros 13 ++ [0x02, 0x82]) = none := by
  decide

/-- R82: two pseudo-operations. -/
theorem test_pseudo :
    (Pseudo.encModeStd 0x01).expand = .encMode 0x01 0x30 ∧ (Pseudo.readParR 0x01).expand = .encSpir 0x01 0x609B 3 := by decide
/-- R81. -/
theorem test_asm : (Instr.encMode 0x01 0x30).asm = "ENC.MODE 0x01, 0x30" := by decide

/-! ### Words of the opcode table -/

theorem test_table_word_transaction : decodeTableWord 8 0x60 = some (.norm 0 0 0 0 0 0 0 0) := by decide
theorem test_table_word_frame : decodeTableWord 392 0x110000 = some (.frameSpiw 0 0 0 []) := by decide +kernel
theorem test_table_word_response : decodeTableWord 120 0x8011 = some (.respSpiw (zeros 13) []) := by decide +kernel
theorem test_fetch_transaction : step (State.reset.withFetchWord 8 0x20) = .next { State.reset with res := [0x00] } := rfl
theorem test_fetch_response : stepped (State.reset.withFetchWord 120 0x8011) (fun t => t.rxLen == 15 && t.host.settleOwed) = true := by
  decide +kernel
theorem test_fetch_frame :
    stepped (State.reset.withFetchWord 392 0x100000) (fun t => t.device.request == some (.spiRead 0 0)) = true := by decide +kernel

/-! ### CRC8 unit, sequence counter (K9, K13, K16; 41_seq_counter.md) -/

theorem test_crc8Init : resAfter .crc8Init State.reset = [0x00] := by decide
theorem test_crc8Upd : resAfter (.crc8Upd 0x33) (State.reset.setCrc 0x72) = [0x00, 0xC0] := by decide
theorem test_crc8Get : resAfter .crc8Get (State.reset.setCrc 0xC0) = [0x00, 0xC0] := by decide
theorem test_crc8Buf :
    resAfter (.crc8Buf [0x31, 0x32, 0x33, 0x34, 0x35, 0x36, 0x37, 0x38, 0x39]) (State.reset.setCrc 0x55) = [0x00, 0xF4] := by decide
theorem test_crc8Buf_frame : resAfter (.crc8Buf [0x01, 0x02, 0x10, 0x3D, 0x60, 0x00, 0x00, 0x09, 0x00]) State.reset = [0x00, 0xFA] := by
  decide
theorem test_seqRst : after .seqRst (State.reset.setSeq 9) (fun t => t.seq == 0 && t.res == [0x00]) = true := by decide

/-! ### Frame encoder (E1, E9, E11, E12, E8, E13) -/

theorem test_encInfo : resAfter (.encInfo 0x01) State.reset = [0x00, 0x01, 0x00, 0x02] ++ zeros 46 := by decide
theorem test_encMode : resAfter (.encMode 0x80 0x3F) (State.reset.setSeq 3) = [0x00, 0x80, 0x03, 0x03, 0x3F] ++ zeros 45 := by decide
theorem test_encSpir :
    resAfter (.encSpir 0xFF 0x12345678 0xABCD) (State.reset.setSeq 2) =
      [0x00, 0xFF, 0x02, 0x10, 0x78, 0x56, 0x34, 0x12, 0xCD, 0xAB] ++ zeros 40 := by decide
/-- E8: `seq` goes from 15 to 0. -/
theorem test_encSpiw :
    after (.encSpiw 0x01 0x6089 [0xAE, 0x40, 0xE1]) (State.reset.setSeq 15) (fun t =>
      t.seq == 0 && t.txBytes == [0x01, 0x0F, 0x11, 0x89, 0x60, 0x00, 0x00, 0x03, 0x00] ++ zeros 7 ++ [0xAE, 0x40, 0xE1] ++ zeros 30) =
    true := by decide
/-- E13. -/
theorem test_encSpiw_refused :
    exec (.encSpiw 0x01 0x6089 (zeros 30)) (State.reset.setSeq 5) = .next ((State.reset.setSeq 5).setRes [0x11]) := rfl

/-! ### Frame decoder -/

/-- `R(n)` of 95_test_vectors.md. -/
def readAnswer (n : Nat) : List Byte :=
  (zeros 13 ++ [0x3D, 0x60, 0x09, 0x00, 0x00, 0x00, 0x00] ++ [0x11, 0x12, 0x13, 0x14, 0x15, 0x16, 0x17, 0x18, 0x19]).take n

/-- The `ECHO_ALT` response of 95_test_vectors.md. -/
def altAnswer : List Byte :=
  zeros 13 ++ [0x90, 0x10, 0x3D, 0x60, 0x00, 0x00, 0x09] ++ [0x11, 0x12, 0x13, 0x14, 0x15, 0x16, 0x17, 0x18, 0x19]

/-- What stands on the RES port after `DEC.SPIR` under `ECHO_ALT`. -/
def resAlt (offset : Offset) (len : Word) (s : State) : List Byte :=
  match decSpirWith Config.echoAlt offset len s with
  | .next t => t.res
  | _ => []

theorem test_rxLoad : after (.rxLoad [0xAA, 0xBB]) (received (readAnswer 0x1D)) (fun t => t.rxLen == 2 && t.rxBytes == [0xAA, 0xBB] &&
    Memory.byte t.rxbuf 0xD == 0) = true := by decide
theorem test_rxLoad_refused :
    after (.rxLoad (zeros 369)) (received [0x07]) (fun t => t == (received [0x07]).setRes [0x11]) = true := by decide +kernel
theorem test_decAck : resAfter .decAck (received (readAnswer 0xF)) = [0x00, 0x3D, 0x60] := by decide
theorem test_decAck_short : resAfter .decAck (received (readAnswer 0xE)) = [0x02] := by decide
theorem test_decMatch : resAfter (.decMatch 0x1180) (received (zeros 13 ++ [0x80, 0x11])) = [0x00] := by decide
theorem test_decMatch_byte_order : resAfter (.decMatch 0x8011) (received (zeros 13 ++ [0x80, 0x11])) = [0x02] := by decide
theorem test_decInfo :
    resAfter .decInfo (received (zeros 13 ++ [0x82, 0x02, 0x03, 0x48, 0x01, 0x02, 0xAA, 0xBB, 0xCC, 0xDD, 0xEE, 0xFF])) =
      [0x00, 0x03, 0x48, 0x01, 0x02, 0xAA, 0xBB, 0xCC, 0xDD, 0xEE, 0xFF] := by decide
theorem test_decInfo_short :
    resAfter .decInfo (received (zeros 13 ++ [0x82, 0x02, 0x03, 0x48, 0x01, 0x02, 0xAA, 0xBB, 0xCC, 0xDD, 0xEE])) = [0x03] := by decide
theorem test_decSpir :
    resAfter (.decSpir 0x1603D 9) (received (readAnswer 0x1D)) =
      [0x00, 0x11, 0x12, 0x13, 0x14, 0x15, 0x16, 0x17, 0x18, 0x19] := by decide
theorem test_decSpir_short : resAfter (.decSpir 0x603D 9) (received (readAnswer 0x11)) = 0x03 :: zeros 9 := by decide
theorem test_echoAlt : resAlt 0x603D 9 (received altAnswer) = [0x00, 0x11, 0x12, 0x13, 0x14, 0x15, 0x16, 0x17, 0x18, 0x19] := by decide
theorem test_echoAlt_whole_offset : resAlt 0x1603D 9 (received altAnswer) = [0x02] := by decide

/-! ### Triplet packer -/

theorem test_triPack : resAfter (.triPack 0x0AE 0xE14) State.reset = [0x00, 0xAE, 0x40, 0xE1] := by decide
theorem test_triPack_refused : resAfter (.triPack 0x000 0x1000) State.reset = [0x11] := by decide
theorem test_triUnpk : resAfter (.triUnpk 0x12 0x34 0x56) State.reset = [0x00, 0x12, 0x04, 0x63, 0x05] := by decide
theorem test_smpUnpk :
    resAfter .smpUnpk (received (zeros 6 ++ [0x00, 0x0B, 0x80, 0x34, 0x12, 0xAB, 0x00])) =
      [0x00, 0x00, 0x0B, 0x00, 0x08, 0x34, 0x02, 0xB1, 0x0A] := by decide
theorem test_smpUnpk_short : resAfter .smpUnpk (received (zeros 6 ++ [0x00, 0x0B, 0x80, 0x34, 0x12, 0xAB])) = [0x03] := by decide

/-! ### Stick normalizer (NV24: the last multiply rounds; NV20: both lanes) -/

theorem test_norm :
    resAfter (.norm 0xCCB 0x800 0x200 0x800 0xE00 0x200 0x800 0xE00) State.reset = [0x00, 0x77, 0x77, 0x5D, 0x3F] ++ zeros 4 := by
  decide +kernel
theorem test_norm_both_axes :
    resAfter (.norm 0xC00 0x400 0x200 0x800 0xE00 0x200 0x800 0xE00) State.reset =
      [0x00, 0xF3, 0x04, 0x35, 0x3F, 0xF3, 0x04, 0x35, 0xBF] := by decide +kernel

/-! ### The device and its responses -/

theorem test_frameInfo : after (.frameInfo 0x01 0) State.reset (fun t => t.device.request == some .info) = true := by decide
theorem test_frameMode : after (.frameMode 0x01 0 0x30) State.reset (fun t => t.device.reportMode == some 0x30) = true := by decide
theorem test_frameSpir : after (.frameSpir 0x01 0 0x603D 9) State.reset (fun t => t.device.request == some (.spiRead 0x603D 9)) = true := by
  decide
theorem test_frameSpiw :
    after (.frameSpiw 0x01 0 0x6089 [0xAE, 0x40, 0xE1]) State.reset (fun t =>
      t.device.flash == [(0x6089, 0xAE), (0x608A, 0x40), (0x608B, 0xE1)]) = true := by decide
/-- A write that leaves the flash map (log 10). -/
theorem test_frameSpiw_outside :
    after (.frameSpiw 0x01 0 0x608B [0xAE, 0x40]) State.reset (fun t => t.device.flash == [] && t.device.epoch == 1) = true := by decide
theorem test_respInfo : after (.respInfo (zeros 13) [0x03]) State.reset (fun t => t.rxLen == 16 && t.res == [0x00]) = true := by decide
theorem test_respSpiw : after (.respSpiw (zeros 13) []) State.reset (fun t => t.rxLen == 15 && t.host.settleOwed) = true := by decide
theorem test_respSerial : after (.respSerial (zeros 13) []) State.reset (fun t =>
    t.rxBytes == zeros 13 ++ [0x90, 0x10] && !t.host.settleOwed) = true := by decide
/-- The answer to an SPI read under `ECHO_DOC`: offset and size from 0xD on, the flash bytes from 0x14 on. -/
theorem test_answer :
    (answerFrom ⟨[(0x6089, 0xAE), (0x608A, 0x40), (0x608B, 0xE1)], 0, none, some (.spiRead 0x6089 3)⟩ 0 (zeros 23)).drop 13 =
      [0x89, 0x60, 0x03, 0x00, 0x00, 0x00, 0x00, 0xAE, 0x40, 0xE1] := by decide

/-! ### Steps -/

theorem test_step_idle : step State.reset = .next State.reset := rfl
theorem test_step_illegal : step (planned [.issue [0x61]]) = .next { State.reset with res := [0x10] } := rfl
theorem test_step_unknown_frame : step (planned [.write]) = .refused .unknownFrame := rfl
theorem test_step_no_handle : step (planned [.openSession none]) = .next { State.reset with host.session := false } := rfl

/-! ### Witnesses: states and operands that meet the hypotheses of the statements -/

/-- `CrcUpdFeedsOneByte`, its last clause. -/
theorem witness_CrcUpd : (0x00 : Byte) = State.reset.crc := by decide
/-- `CrcBufIsCrc8OfTheBytes`, `RxLoadFillsRxbufOrRefuses`: a count with both bytes. -/
theorem witness_counted : (zeros 0x102).length = (0x02 : Byte).toNat + 256 * (0x01 : Byte).toNat := by decide +kernel
theorem witness_CrcBufEqualsInitThenUpds : ([0x07] : List Byte) ≠ [] := by decide
/-- `EncodeStampsThenAdvances`: both statuses. -/
theorem witness_EncodeStamps :
    Claims.isEncode (.encSpiw 1 0x6089 (zeros 29)) = true ∧ (resAfter (.encSpiw 1 0x6089 (zeros 29)) State.reset).headD 0 = 0x00 ∧
      Claims.isEncode (.encSpiw 1 0x6089 (zeros 30)) = true ∧ (resAfter (.encSpiw 1 0x6089 (zeros 30)) State.reset).headD 0 ≠ 0x00 := by
  decide
theorem witness_SeqCounts : State.reset.seq = 0 ∧
    ∀ i ∈ [Instr.encInfo 1, .encSpiw 1 0x6089 []], Claims.isEncode i = true ∧ ∀ c o d, i = .encSpiw c o d → d.length ≤ 29 := by
  refine ⟨rfl, ?_⟩
  intro i hi
  simp only [List.mem_cons, List.not_mem_nil, or_false] at hi
  rcases hi with rfl | rfl
  · exact ⟨rfl, fun c o d h => by cases h⟩
  · exact ⟨rfl, fun c o d h => by cases h; decide⟩
/-- `EncSpiwBuildsItsFrameOrRefuses` and `BuiltFramesAreRowsOfTheTable`: the largest write, and one byte more. -/
theorem witness_EncSpiw :
    (zeros 29).length = (29 : Byte).toNat + 256 * (0 : Byte).toNat ∧ (zeros 29).length ≤ 29 ∧
      (zeros 30).length = (30 : Byte).toNat + 256 * (0 : Byte).toNat ∧ 29 < (zeros 30).length := by decide
/-- `RxLoadFillsRxbufOrRefuses`: the longest response, and one byte more. -/
theorem witness_RxLoad :
    (zeros 0x170).length = (0x70 : Byte).toNat + 256 * (1 : Byte).toNat ∧ (zeros 0x170).length ≤ 0x170 ∧
      (zeros 0x171).length = (0x71 : Byte).toNat + 256 * (1 : Byte).toNat ∧ 0x170 < (zeros 0x171).length := by decide +kernel
theorem witness_DecodersDepend :
    Claims.readsResponse .decAck = true ∧ (received [1]).rxLen = ((received [1]).setSeq 3).rxLen ∧
      ∀ a, a < (received [1]).rxLen → Claims.rx (received [1]) a = Claims.rx ((received [1]).setSeq 3) a :=
  ⟨rfl, rfl, fun _ _ => rfl⟩
theorem witness_PureOperations : Claims.writesNothing .crc8Get = true := rfl
theorem witness_TripletRoundTrip : (0xFFF : Word).toNat ≤ 0xFFF := by decide
/-- `NormRefusesACalibration`: a maximum past 0xFFF; the zero divisor with the raw sample at the maximum, and below it where
`min = center = max`. -/
theorem witness_NormRefuses :
    ¬ (Claims.goodTriple 0x200 0x800 0x1000 ∧ Claims.goodTriple 0x200 0x800 0xE00) ∧
      Claims.zeroDivisor 0x800 0x200 0x800 0x800 ∧ Claims.zeroDivisor 0x7FF 0x800 0x800 0x800 := by
  unfold Claims.goodTriple Claims.zeroDivisor Claims.clamped
  decide
/-- `NormComputesThePipeline`, `NormLanesAreSymmetric`: the second axis has `center = max`, and a raw sample below it. -/
theorem witness_NormComputes :
    Claims.goodTriple 0 0x800 0xFFF ∧ Claims.goodTriple 0x200 0x800 0x800 ∧ ¬ Claims.zeroDivisor 0xFFF 0 0x800 0xFFF ∧
      ¬ Claims.zeroDivisor 0x7FF 0x200 0x800 0x800 := by
  unfold Claims.goodTriple Claims.zeroDivisor Claims.clamped
  decide
/-- `NormCenterGivesZero`, and `NormFullDeflectionGivesOne` with both its clauses at their bounds. -/
theorem witness_NormCenter :
    Claims.goodTriple 0 0x800 0xFFF ∧ (0x800 : Word).toNat < (0xFFF : Word).toNat ∧ (0xFFF : Word).toNat ≤ (0xFFFF : Word).toNat ∧
      (0 : Word).toNat < (0x800 : Word).toNat ∧ (0 : Word).toNat ≤ (0 : Word).toNat := by
  unfold Claims.goodTriple
  decide
theorem witness_SmallIntegers : (2 ^ 24 - 1 : Int).natAbs < 2 ^ 24 := by decide
/-- `RoundingIsToNearestTiesToEven`: 2^24 + 1 lies midway between two values, 2^24 (the even one) and 2^24 + 2. -/
theorem witness_Rounding :
    let r := Binary32.round false (2 ^ 24 + 1) 1
    0 < 1 ∧ 2 ^ 24 + 1 < (2 ^ 25 - 1) * 2 ^ 103 * 1 ∧ Binary32.isFinite (r + 1) = true ∧
      Binary32.units r = 2 ^ 24 * 2 ^ 149 ∧ Binary32.units (r + 1) = (2 ^ 24 + 2) * 2 ^ 149 := by decide +kernel
/-- `ArithmeticIsCorrectlyRounded`: 2^24 and 1 have a sum midway between two values; a subnormal quotient; two zeros of unlike sign. -/
theorem witness_Arithmetic :
    Binary32.isFinite 0x4B800000 = true ∧ Binary32.isFinite 0x3F800000 = true ∧
      Claims.representable (Binary32.value 0x4B800000 + Binary32.value 0x3F800000) 1 ∧
      Claims.representable (Binary32.value 0x4B800000 - Binary32.value 0x3F800000) 1 ∧
      Claims.representable (Binary32.value 0x4B800000 * Binary32.value 0x3F800000) (2 ^ 149) ∧ Binary32.value 0x4B800000 ≠ 0 ∧
      Claims.representable (Binary32.value 0x00000003 * 2 ^ 149 * (Binary32.value 0x4B800000).sign) (Binary32.value 0x4B800000).natAbs ∧
      Binary32.value 0x80000000 + Binary32.value 0x00000000 = 0 := by
  unfold Claims.representable
  decide +kernel
/-- R10: a sum and a quotient on the middle go to the even value; a zero sum of unlike signs is `+0.0`. -/
theorem test_arithmetic :
    Binary32.add 0x4B800000 0x3F800000 = 0x4B800000 ∧ Binary32.div 0x00000003 0x40000000 = 0x00000002 ∧
      Binary32.add 0x80000000 0x00000000 = 0x00000000 ∧ Binary32.mul 0xBF800000 0x00000000 = 0x80000000 := by decide +kernel
/-- `SquareRootIsCorrectlyRounded`: a root that is not exact, and values above and below it. -/
theorem witness_SquareRoot :
    Binary32.isFinite 0x40000000 = true ∧ 0 ≤ Binary32.value 0x40000000 ∧ Binary32.sqrt 0x40000000 = 0x3FB504F3 ∧
      Binary32.value 0x3FB504F3 < Binary32.value 0x3FB504F4 ∧ Binary32.value 0x3FB504F2 < Binary32.value 0x3FB504F3 := by decide +kernel
/-- `OperationsEndWithTheirStatuses`, `FailingOperationsChangeNothing`. -/
theorem witness_Operations : Instr.port (.triPack 0x1000 0) = .cmd ∧ (resAfter (.triPack 0x1000 0) State.reset).headD 0 ≠ 0x00 := by decide
/-- `IllegalTransactionsAreAnswered`. -/
theorem witness_Illegal : (planned [.issue []]).host.agenda = .issue [] :: [] ∧ ¬ Claims.lawfulTransaction [] :=
  ⟨rfl, fun h => h⟩
/-- `SpiwFrameWritesFlash`: the whole first range. -/
theorem witness_SpiwFrame : State.reset.host.settleOwed = false ∧ zeros 9 ≠ [] ∧
    ∀ i, i < (zeros 9).length → Claims.mapped ((0x603D : Offset).toNat + i) := by
  refine ⟨rfl, by decide, fun i hi => .inl ?_⟩
  have hl : (zeros 9).length = 9 := rfl
  have ho : (0x603D : Offset).toNat = 0x603D := rfl
  omega
/-- The reset state, this having been asked last, with this exchange unresolved. -/
def inExchange (asked : Option Request) (x : Option Exchange) : State :=
  State.reset.setHost { State.reset.host with asked := asked, exchange := x }

/-- `FramesReachTheDevice`, its last clause: the settle delay owed, no data, a byte just past a range. -/
theorem witness_FramesReachTheDevice :
    Claims.noStatedOutcome (State.reset.setHost { State.reset.host with settleOwed := true }) 0x603D (zeros 9) ∧
      Claims.noStatedOutcome State.reset 0x603D [] ∧ Claims.noStatedOutcome State.reset 0x608B (zeros 2) := by
  refine ⟨.inl rfl, .inr (.inl rfl), .inr (.inr ⟨1, by decide, ?_⟩)⟩
  unfold Claims.mapped
  decide
theorem witness_ResponsesAreLoaded : (zeros 13).length = 0xD ∧ 0xF + (zeros 353).length ≤ 0x170 := by decide +kernel
/-- `StepRunsTheTransaction`: one that resolves no exchange, and one that does: `DEC.MATCH` of an SPI-write acknowledgment that came. -/
theorem witness_StepRunsTheTransaction :
    let e : Exchange := ⟨.spiWrite 0x6089 [1], 0, 1, false⟩
    let s := (inExchange none (some e)).setRx (zeros 13 ++ [0x80, 0x11])
    (planned [.issue [0x20]]).host.agenda = .issue [0x20] :: [] ∧ decode .cmd [0x20] = some .seqRst ∧
      State.reset.host.exchange = none ∧ (s.plan (.issue [0x42, 0x80, 0x11])).host.agenda = .issue [0x42, 0x80, 0x11] :: [] ∧
      decode .cmd [0x42, 0x80, 0x11] = some (.decMatch 0x1180) ∧ s.host.exchange = some e ∧ 0 < e.reads ∧
      exec (.decMatch 0x1180) s = .next (s.setRes [0x00]) ∧ Claims.concludes e.request (.decMatch 0x1180) (s.setRes [0x00]) :=
  ⟨rfl, rfl, rfl, rfl, rfl, rfl, by decide, rfl, rfl, rfl⟩
/-- R249: a single `DEC.MATCH` with success resolves the exchange it judges after a read, and no other; a mismatch resolves none. -/
theorem test_conclude :
    let s := fun e : Exchange => (inExchange none (some e)).setRx (zeros 13 ++ [0x80, 0x11])
    let w := Request.spiWrite 0x6089 [1]
    let after := fun e ct => stepped ((s e).plan (.issue ct))
    after ⟨w, 0, 1, false⟩ [0x42, 0x80, 0x11] (fun t => t.host.exchange == none) = true ∧
      after ⟨w, 0, 1, false⟩ [0x42, 0x82, 0x02] (fun t => t.host.exchange == some ⟨w, 0, 1, false⟩) = true ∧
      after ⟨w, 0, 0, false⟩ [0x42, 0x80, 0x11] (fun t => t.host.exchange == some ⟨w, 0, 0, false⟩) = true ∧
      after ⟨.info, 0, 1, false⟩ [0x42, 0x80, 0x11] (fun t => t.host.exchange == some ⟨.info, 0, 1, false⟩) = true := by decide
/-- R251: `DEC.MATCH 0x1180` with success makes the settle delay owed, in whatever view the response came, and another code does not. -/
theorem test_settle_owed :
    let s := (inExchange (some (.spiRead 0x6046 9)) none).setRx (zeros 13 ++ [0x80, 0x11])
    stepped (s.plan (.issue [0x42, 0x80, 0x11])) (fun t => t.host.settleOwed) = true ∧
      stepped (s.plan (.issue [0x42, 0x82, 0x02])) (fun t => !t.host.settleOwed) = true ∧
      stepped (s.plan (.issue [0x41])) (fun t => !t.host.settleOwed) = true := by decide
/-- `StepRunsTheFrame`: a frame taken, bytes that are no frame, each lost as well. -/
theorem witness_StepRunsTheFrame :
    let s := planned [.write]
    let u := s.setTx ([0x01, 0x00, 0x02] ++ zeros 46)
    let v := s.setTransport ⟨[.done false], []⟩
    s.host.agenda = .write :: [] ∧ s.host.session = true ∧ s.host.sent = false ∧ (s.setSent true).host.sent = true ∧ u.host = s.host ∧ v.host = s.host ∧ u.nextWrite.taken = true ∧
      decode .tx u.txBytes = some (.frameInfo 0x01 0) ∧ s.nextWrite.taken = true ∧ decode .tx s.txBytes = none ∧
      v.nextWrite.taken = false ∧ (v.setTx u.txBytes).nextWrite.taken = false := by decide
/-- `StepRunsTheResponse`: a delivery that is a row, one that is none, one that is a row in another view, the device's answer, a time-out
listed, an error. -/
theorem witness_StepRunsTheResponse :
    let bytes := zeros 13 ++ [0x80, 0x11]
    let s := fun e : ReadEvent => (planned [.read 64]).setTransport ⟨[], [e]⟩
    (planned [.read 64]).host.agenda = .read 64 :: [] ∧ (s (.deliver bytes)).host = (planned [.read 64]).host ∧
      (planned [.read 64]).host.session = true ∧ (s (.deliver bytes)).transport.reads.head? = some (.deliver bytes) ∧
      decode .rx bytes = some (.respSpiw (zeros 13) []) ∧ (s (.deliver [0x07])).transport.reads.head? = some (.deliver [0x07]) ∧
      decode .rx [0x07] = none ∧ (s (.answer [])).transport.reads.head? = some (.answer []) ∧
      decode .rx (answerFrom (s (.answer [])).device 0 []) = none ∧ (planned [.read 64]).transport.reads = [] ∧
      (s .timeout).transport.reads.head? = some .timeout ∧ (s .error).transport.reads.head? = some .error := by decide
/-- `StepRunsTheResponse`: what was asked chooses the view (R61, C1). -/
theorem witness_view :
    Claims.carriesCode none (.respSpiw (zeros 13) []) ∧ Claims.carriesCode (some (.spiWrite 0x6089 [1])) (.respSpiw (zeros 13) []) ∧
      ¬ Claims.carriesCode (some (.spiRead 0x1180 9)) (.respSpiw (zeros 13) []) ∧ ¬ Claims.carriesCode (some (.mode 0x30)) (.respSpiw (zeros 13) []) ∧
      Claims.carriesCode (some (.spiRead 0x6050 9)) (.respSerial (zeros 13) []) :=
  ⟨trivial, trivial, (fun ⟨_, _, h⟩ => nomatch h), id, ⟨_, _, rfl⟩⟩
/-- C1: bytes 80 11 at 0xD are the echo of an SPI read of 0x1180, and an acknowledgment only after an SPI write. -/
theorem test_view :
    let s := fun asked => ((inExchange asked (some ⟨.info, 0, 0, false⟩)).setTransport ⟨[], [.deliver (zeros 13 ++ [0x80, 0x11, 0x09, 0x00])]⟩).plan (.read 64)
    stepped (s (some (.spiRead 0x1180 9))) (fun t => t.rxLen == 17 && !t.host.settleOwed && t.host.exchange == some ⟨.info, 0, 1, false⟩) = true ∧
      stepped (s (some (.spiWrite 0x6089 [1]))) (fun t => t.rxLen == 17 && t.host.settleOwed) = true := by decide
/-- `IdleAndSessions`: nothing planned; a handle and none; without a session, each kind of task at a call of the transport. -/
theorem witness_IdleAndSessions :
    let s := fun task : Task => (planned [task]).setHost { (planned [task]).host with session := false }
    State.reset.host.agenda = [] ∧ (planned [.openSession (some .leftOnly)]).host.agenda = .openSession (some .leftOnly) :: [] ∧
      (planned [.openSession none]).host.agenda = .openSession none :: [] ∧
      (s .write).host.session = false ∧ (s .write).host.agenda = .write :: [] ∧
      Claims.callsTransport .write ∧ Claims.callsTransport (.read 1) ∧ Claims.callsTransport (.query .info 1 ⟨0, 0, .read⟩) ∧
      Claims.callsTransport (.writeSpi 1 0x6089 [] [] ⟨0, 0, .write⟩) ∧
      Claims.callsTransport (.readSpi 1 0x603D 9 (some 5) ⟨0, 4, .read⟩) ∧ Claims.callsTransport (.capture 1 {} .answer) :=
  ⟨rfl, rfl, rfl, rfl, rfl, trivial, trivial, .inr rfl, .inl rfl, .inr ⟨rfl, fun n h => by cases h; decide⟩, .inr (.inl rfl)⟩
theorem witness_DecodeEncode : Instr.wf (.frameSpiw 1 15 0x603D (zeros 29)) = true := by decide
/-- `EncodeDecode`: a byte string of each port that decodes. -/
theorem witness_EncodeDecode :
    (decode .cmd [0x11, 0x00]).isSome = true ∧ (decode .tx ([0x01, 0x0F, 0x02] ++ zeros 46)).isSome = true ∧
      (decode .rx (zeros 13 ++ [0x90, 0x10])).isSome = true := by decide
/-- `StepKeepsTheInvariant`: a state that meets it, and its step. -/
theorem witness_Invariant : State.Inv (planned [.issue [0x30, 0x01]]) ∧
    stepped (planned [.issue [0x30, 0x01]]) (fun t => t.seq == 1) = true :=
  ⟨⟨by decide, by decide, by decide, by decide, by decide, by decide⟩, by decide⟩
/-- `ResetOfTheBlock`. -/
theorem witness_ResetEvent : (planned [.reset]).host.agenda = .reset :: [] := rfl
/-- `BoundedPoliciesGiveUpAfterTwentySends`: a write and a query at their start, with a transport that answers so. -/
theorem witness_GivesUp :
    let s := fun (task : Task) reads => (planned [task]).setTransport ⟨List.replicate 20 (.done true), List.replicate reads .timeout⟩
    let w := Task.writeSpi 0x01 0x6089 (zeros 29) [] Progress.start
    let q := Task.query (.serial 0x6000 16) 0x01 Progress.start
    (zeros 29).length ≤ 29 ∧ (s w 20).host.session = true ∧
      (s w 20).transport = ⟨List.replicate 20 (.done true), List.replicate 20 .timeout⟩ ∧ (s w 20).host.agenda = [w] ∧
      (s q 160).host.session = true ∧
      (s q 160).transport = ⟨List.replicate 20 (.done true), List.replicate 160 .timeout⟩ ∧ (s q 160).host.agenda = [q] ∧
      ¬ Claims.outstanding (s w 20) (.spiWrite 0x6089 (zeros 29)) ∧ ¬ Claims.outstanding (s q 160) (.spiRead 0x6000 16) :=
  ⟨by decide, rfl, rfl, rfl, rfl, rfl, rfl, (fun ⟨_, h, _⟩ => nomatch h), (fun ⟨_, h, _⟩ => nomatch h)⟩
/-- `WriteSpiSendsJudgesAndSettles`: each plan of its first clause; its second where the data are refused; its third at a send with data
of 29 and of 30 bytes, and at a judgement. -/
theorem witness_WriteSpi :
    let block : CalBlock := ⟨⟨1, 2, 3⟩, ⟨4, 5, 6⟩, ⟨7, 8, 9⟩⟩
    let w := fun n point => Task.writeSpi 0x01 0x6089 (zeros n) [] ⟨0, 0, point⟩
    (planned [.settle 0x01 []]).host.agenda = .settle 0x01 [] :: [] ∧
      (planned [.settle 0x01 [.calibration 0x603D block]]).host.agenda = .settle 0x01 [.calibration 0x603D block] :: [] ∧
      (planned [.settle 0x01 [.parameters 0x609B ⟨1, 2⟩]]).host.agenda = .settle 0x01 [.parameters 0x609B ⟨1, 2⟩] :: [] ∧
      (∀ n point, (planned [w n point]).host.agenda = w n point :: []) ∧ (zeros 29).length ≤ 29 ∧ 29 < (zeros 30).length ∧
      stepped (planned [w 30 .send]) (fun t => t.host.result != State.reset.host.result) = true :=
  ⟨rfl, rfl, rfl, fun _ _ => rfl, by decide, by decide, by decide⟩
/-- R185: a judgement of each outcome: the acknowledgment, another code, no byte. -/
theorem test_writeSpi_judge :
    let s := fun bytes => (planned [.writeSpi 0x01 0x6089 [1] [] ⟨3, 7, .judge⟩]).setRx bytes
    let a := fun bytes => stepped (s bytes)
    a (zeros 13 ++ [0x80, 0x11]) (fun t => t.host.agenda == [.settle 0x01 []]) = true ∧
      a (zeros 15) (fun t => t.host.agenda == [.writeSpi 0x01 0x6089 [1] [] ⟨4, 0, .send⟩]) = true ∧
      a [] (fun t => t.host.agenda == [.writeSpi 0x01 0x6089 [1] [] ⟨4, 0, .send⟩]) = true := by decide
/-- `QueriesSendAndJudge`: a query at each point, a frame to write, and an answer. -/
theorem witness_Queries :
    let q := fun point => Task.query (.serial 0x6000 16) 0x01 ⟨0, 0, point⟩
    let s := fun point => (planned [q point]).setTx (encode (.frameSpir 0x01 0 0x6000 16))
    (∀ point, (s point).host.agenda = q point :: []) ∧ (s .write).host.session = true ∧ (s .write).host.sent = false ∧
      (s .write).nextWrite.complete = true ∧
      decode .tx (s .write).txBytes = some (.frameSpir 0x01 0 0x6000 16) ∧
      Claims.asks (.frameSpir 0x01 0 0x6000 16) = some (.spiRead 0x6000 16) ∧
      ¬ Claims.outstanding (s .write) (.spiRead 0x6000 16) ∧ (s .read).nextRead ≠ .error :=
  ⟨fun _ => rfl, rfl, rfl, rfl, by decide, rfl, (fun ⟨_, h, _⟩ => nomatch h), by decide⟩
/-- R184, R189: the serial number is judged by the code 0x1090. -/
theorem test_query_judge :
    let s := fun q bytes => (planned [.query q 0x01 ⟨19, 7, .judge⟩]).setRx bytes
    stepped (s (.serial 0x6000 16) (zeros 13 ++ [0x90, 0x10])) (fun t => t.host.result == .done .ok []) = true ∧
      stepped (s .info (zeros 13 ++ [0x82, 0x02, 1, 2, 3, 4, 5, 6, 7, 8, 9, 10])) (fun t =>
        t.host.result == .done .ok [1, 2, 3, 4, 5, 6, 7, 8, 9, 10]) = true ∧
      stepped (s .info []) (fun t => t.host.result == .done .retryBudgetExhausted []) = true := by decide
/-- `ReadSpiReturnsOrGoesRoundAgain`: a send; an answer that matches, one cut short, none at all; a read; the last read of a bound and
the one before it, and a bound that is reached before a read. -/
theorem witness_ReadSpi :
    let task := fun bound reads point => Task.readSpi 0x01 0x603D 9 bound ⟨0, reads, point⟩
    let s := fun n => (planned [task none 0 .judge]).setRx (readAnswer n)
    let r := planned [task none 0 .read]
    let echo := fun n => [Claims.rx (s n) 0xD, Claims.rx (s n) 0xE, Claims.rx (s n) 0xF, Claims.rx (s n) 0x10]
    (planned [task none 0 .send]).host.agenda = task none 0 .send :: [] ∧ (s 0x1D).host.agenda = task none 0 .judge :: [] ∧
      0x11 ≤ (s 0x1D).rxLen ∧ echo 0x1D = [0x3D, 0x60] ++ Claims.wordBytes 9 ∧ 0x14 + 9 ≤ (s 0x1D).rxLen ∧
      0x11 ≤ (s 0x11).rxLen ∧ echo 0x11 = [0x3D, 0x60] ++ Claims.wordBytes 9 ∧ (s 0x11).rxLen < 0x14 + 9 ∧
      (s 0).rxLen < 0x11 ∧ r.host.agenda = task none 0 .read :: [] ∧ r.host.session = true ∧
      r.nextRead ≠ .error ∧ (r.setTransport ⟨[], [.error]⟩).nextRead = .error ∧
      (planned [task (some 5) 4 .judge]).host.agenda = task (some 5) 4 .judge :: [] ∧ 5 ≤ 4 + 1 ∧ 3 + 1 < 5 ∧ 4 < 5 ∧
      (planned [task (some 0) 0 .read]).host.agenda = task (some 0) 0 .read :: [] ∧ 0 ≤ 0 := by decide
/-- R186: with the last read its bound allows the SPI read ends, though the host would send again. -/
theorem test_readSpi_bound :
    let s := fun reads => (planned [.readSpi 0x01 0x603D 9 (some 5) ⟨0, reads, .judge⟩]).setHost
      { (planned [.readSpi 0x01 0x603D 9 (some 5) ⟨0, reads, .judge⟩]).host with choices := [.resend] }
    stepped (s 4) (fun t => t.host.agenda == [] && t.host.result == .done .timeout []) = true ∧
      stepped (s 3) (fun t => t.host.agenda == [.readSpi 0x01 0x603D 9 (some 5) ⟨1, 4, .send⟩]) = true := by decide
/-- A read of the SPI read that fails, and a host that would give up: it goes round again (R253). -/
theorem test_readSpi_never_gives_up :
    let s := (planned [.readSpi 0x01 0x603D 9 none ⟨0, 0, .read⟩]).setTransport ⟨[], [.error]⟩
    stepped (s.setHost { s.host with choices := [.giveUp] }) (fun t =>
      t.host.agenda == [.readSpi 0x01 0x603D 9 none ⟨0, 1, .read⟩]) = true := by decide
/-- `CalibrationWritesInOrder`: the task, and parameters that pack, at their largest, and one more. -/
theorem witness_Calibration :
    let block : CalBlock := ⟨⟨1, 2, 3⟩, ⟨4, 5, 6⟩, ⟨7, 8, 9⟩⟩
    let pack := fun p : StickParams => Task.packParams 0x01 0x609B p []
    (planned [.calibrate 0x01 block ⟨1, 2⟩ block ⟨3, 4⟩]).host.agenda = .calibrate 0x01 block ⟨1, 2⟩ block ⟨3, 4⟩ :: [] ∧
      (planned [pack ⟨0xFFF, 0xFFF⟩]).host.agenda = pack ⟨0xFFF, 0xFFF⟩ :: [] ∧
      (planned [pack ⟨0x1000, 0⟩]).host.agenda = pack ⟨0x1000, 0⟩ :: [] := ⟨rfl, rfl, rfl⟩
/-- P3, line 1: the parameters 0x0AE and 0xE14 are the block AE 40 E1. -/
theorem test_packParams :
    stepped (planned [.packParams 0x01 0x6089 ⟨0x0AE, 0xE14⟩ []]) (fun t =>
      t.host.agenda == [.writeSpi 0x01 0x6089 [0xAE, 0x40, 0xE1] [] Progress.start]) = true ∧
      Triplet.params ⟨0xAE, 0x40, 0xE1⟩ = ⟨0x0AE, 0xE14⟩ := by decide
/-- A state that is about to write an SPI-write frame, this exchange unresolved. -/
def writing (e : Exchange) : State :=
  ((inExchange none (some e)).setTx (encode (.frameSpiw 0x01 0 0x6089 [0xAE]))).plan .write

/-- `StepRunsTheFrame`: a frame that may not follow and some that may, each at the bound of its clause. -/
theorem witness_outstanding :
    let w := Request.spiWrite 0x6089 [0xAE]
    let out := fun e => Claims.outstanding (writing e) w
    out ⟨.info, 0, 0, false⟩ ∧ out ⟨w, 0, 0, false⟩ ∧ out ⟨.info, 19, 7, false⟩ ∧ out ⟨.info, 18, 8, false⟩ ∧
      ¬ out ⟨.info, 19, 8, false⟩ ∧ ¬ out ⟨.info, 0, 0, true⟩ ∧ ¬ out ⟨w, 0, 1, false⟩ ∧
      ¬ out ⟨.spiWrite 0x6046 [1], 19, 1, false⟩ ∧ out ⟨.spiWrite 0x6046 [1], 18, 1, false⟩ ∧
      ¬ out ⟨.spiRead 0x603D 9, 0, 1, false⟩ ∧ out ⟨.spiRead 0x603D 9, 0, 0, false⟩ ∧ ¬ out ⟨.mode 0x30, 0, 1, false⟩ := by
  simp [Claims.outstanding, Claims.mayFollow, Claims.isSpiWrite, writing, inExchange, State.plan, State.setHost, State.setTx, State.reset]
/-- R249: a second frame is refused: before any read, the same one too, and before the last read of the last send. -/
theorem test_second_frame_refused :
    step (writing ⟨.info, 0, 0, false⟩) = .refused .frameOutstanding ∧
      step (writing ⟨.spiWrite 0x6089 [0xAE], 0, 0, false⟩) = .refused .frameOutstanding ∧
      step (writing ⟨.info, 19, 7, false⟩) = .refused .frameOutstanding := ⟨rfl, rfl, rfl⟩
/-- The state with the frame in `TXBUF` handed over before. -/
def sentBefore (s : State) : State := s.setSent true
/-- R113: the same frame is refused, as a re-send too. -/
theorem test_same_frame_refused :
    step (sentBefore (writing ⟨.spiWrite 0x6089 [0xAE], 0, 8, false⟩)) = .refused .frameSent ∧
      step (sentBefore ((planned [.write]).setTx (encode (.frameInfo 0x01 0)))) = .refused .frameSent := ⟨rfl, rfl⟩
/-- R113: an encode operation that ends with `OK` builds a fresh frame, one that is refused does not; a frame that is lost counts as sent. -/
theorem test_fresh_frame :
    let s := fun task => sentBefore (planned [task])
    stepped (s (.issue [0x30, 0x01])) (fun t => !t.host.sent) = true ∧
      stepped (s (.query .info 0x01 Progress.start)) (fun t => !t.host.sent) = true ∧
      stepped (s (.writeSpi 0x01 0x6089 (zeros 30) [] Progress.start)) (fun t => t.host.sent) = true ∧
      stepped (((planned [.write]).setTx (encode (.frameInfo 0x01 0))).setTransport ⟨[.failed false], []⟩) (fun t => t.host.sent) = true := by
  decide
/-- R51, R184: with the 8 reads of the 20th send used up the exchange is over, and the frame after it writes `FLASH`. -/
theorem test_exhausted_exchange :
    stepped (writing ⟨.info, 19, 8, false⟩) (fun t => t.device.flash == [(0x6089, 0xAE)] &&
      t.host.exchange == some ⟨.spiWrite 0x6089 [0xAE], 0, 0, false⟩) = true := by decide
/-- R185: a re-send after a read of zero bytes counts a failed send, one after a read that brought something does not yet; D31: one after
a failed `write` does. -/
theorem test_resend :
    let w := Request.spiWrite 0x6089 [0xAE]
    let s := fun reads failed => writing ⟨w, 3, reads, failed⟩
    stepped (s 1 false) (fun t => t.host.exchange == some ⟨w, 4, 0, false⟩) = true ∧
      stepped ((s 1 false).setRx [0]) (fun t => t.host.exchange == some ⟨w, 3, 0, false⟩) = true ∧
      stepped ((s 0 true).setTransport ⟨[.failed false], []⟩) (fun t => t.host.exchange == some ⟨w, 4, 0, true⟩) = true := by decide
/-- R188, R249: a write that the encoder refuses sends nothing, and an exchange unresolved before stays so. -/
theorem test_refused_write :
    stepped ((inExchange none (some ⟨.info, 0, 0, false⟩)).plan (.writeSpi 0x01 0x6089 (zeros 30) [] Progress.start)) (fun t =>
      t.host.result == .done .operandRange [] && t.host.exchange == some ⟨.info, 0, 0, false⟩) = true := by decide

/-- A report of 13 bytes (95_test_vectors.md, P4). -/
def report : List Byte := zeros 6 ++ [0x00, 0x0B, 0x80, 0x34, 0x12, 0xAB, 0x00]

/-- A capture in a phase of a controller with this kind, its accumulators all `t`, a report having been received. -/
def capturing (phase : Phase) (kind : Kind) (t : Track) : State :=
  let s := (planned [.capture 0x01 {} .judge]).setRx report
  s.setHost { s.host with kind := kind, capture := ⟨phase, t, t, t, t, StickResult.blank, StickResult.blank⟩ }

/-- `CapturePhaseOne`, `CapturePhaseTwo`: the hypotheses, at the first sample of a phase and later, for a stick present and absent. -/
theorem witness_CapturePhases :
    let s := fun phase => capturing phase .leftOnly ⟨0x7F0, 0x815⟩
    let first := fun phase => capturing phase .leftOnly ⟨0xFFF, 0⟩
    (∀ phase, (s phase).host.agenda = .capture 0x01 {} .judge :: [] ∧ (first phase).host.agenda = (s phase).host.agenda ∧
      readSample (s phase) = .ok ⟨0xB00, 0x800, 0x234, 0xAB1⟩ ∧ readSample (first phase) = readSample (s phase) ∧
      (s phase).host.capture.phase = phase ∧ (first phase).host.capture.phase = phase ∧
      (s phase).host.capture.ok = true ∧ (first phase).host.capture.ok = true ∧
      Claims.sampled .left (s phase).host.capture) ∧
      Claims.Side.present .left .leftOnly ∧ ¬ Claims.Side.present .right .leftOnly :=
  ⟨fun phase => by
    cases phase <;>
      exact ⟨rfl, rfl, by decide, rfl, rfl, rfl, by decide, by decide, by decide +revert, by decide +revert⟩,
    Kind.noConfusion, fun h => h rfl⟩
/-- `CaptureSetsTheStandardMode`: each point of the exchange, its read with an error too, and a response that carries a code. -/
theorem witness_CaptureMode :
    let s := fun point => (planned [.capture 0x01 {} point]).setTx (encode (.frameMode 0x01 0 0x30))
    (∀ point, (s point).host.agenda = .capture 0x01 {} point :: []) ∧ (s .write).host.session = true ∧ (s .write).host.sent = false ∧
      (s .write).nextWrite.complete = true ∧ decode .tx (s .write).txBytes = some (.frameMode 0x01 0 0x30) ∧
      Claims.asks (.frameMode 0x01 0 0x30) = some (.mode 0x30) ∧ ¬ Claims.outstanding (s .write) (.mode 0x30) ∧ (s .answer).nextRead ≠ .error ∧
      ((s .answer).setTransport ⟨[], [.error]⟩).nextRead = .error ∧ 0xF ≤ ((s .accept).setRx (zeros 15)).rxLen :=
  ⟨fun _ => rfl, rfl, rfl, rfl, by decide, rfl, (fun ⟨_, h, _⟩ => nomatch h), by decide, rfl, by decide⟩
/-- `CaptureEndsOnlyInPhaseDone`: a report of 12 bytes and one of 13. -/
theorem witness_CaptureEnds :
    let s := fun n => (planned [.capture 0x01 {} .judge]).setRx (zeros n)
    (planned [.capture 0x01 {} .read]).host.agenda = .capture 0x01 {} .read :: [] ∧
      (planned [.capture 0x01 {} .read]).host.session = true ∧ (s 12).host.agenda = .capture 0x01 {} .judge :: [] ∧
      (s 13).host = (s 12).host ∧ (s 12).rxLen ≤ 12 ∧ 12 < (s 13).rxLen := by decide
/-- E2: the frame a capture sends before its first phase. -/
theorem test_capture_mode :
    stepped (planned [.capture 0x01 {} .mode]) (fun t => t.txBytes == [0x01, 0x00, 0x03, 0x30] ++ zeros 45) = true := by decide
/-- R210: the spec's example, and a kind that `RR_KINDS` has. -/
theorem test_rangeRatio :
    rangeRatio {} .both 0x210 0xDF0 0x230 0xE10 0 = 0xC00 ∧
      rangeRatio { rrConst := 0x700, rrKinds := [.leftOnly] } .leftOnly 0x210 0xDF0 0x230 0xE10 0 = 0x700 := by decide

/-- R205, R206: the spec's example. -/
theorem test_center :
    (centerResult ⟨0x7F0, 0x815⟩ ⟨0x7F8, 0x80A⟩ 0 0 StickResult.blank).xcenter = 0x802 ∧
      (centerResult ⟨0x7F0, 0x815⟩ ⟨0x7F8, 0x80A⟩ 0 0 StickResult.blank).deadzone = 0x12 := by decide

end Sys2Proof.Tests
end

section
/-! PROOFS. The CRC8 unit: what CRC8.UPD and CRC8.BUF decode from, and what they do to the whole state. -/

namespace Sys2Proof.Machine

/-! ### The running value -/

/-- R100: the running value is a fold of `CRCROM`, from whatever value it is continued from. -/
theorem crcRun_eq_foldl (c : Byte) (bytes : List Byte) :
    crcRun c bytes = bytes.foldl (fun c b => crcRom (c ^^^ b)) c := by
  induction bytes generalizing c with
  | nil => rfl
  | cons b bs ih => exact ih (crcRom (c ^^^ b))

theorem crc8_eq_foldl (bytes : List Byte) :
    crc8 bytes = bytes.foldl (fun c b => crcRom (c ^^^ b)) 0x00 :=
  crcRun_eq_foldl 0x00 bytes

@[simp] theorem crcRom_zero : crcRom 0x00 = 0x00 := by decide

/-- R103, the corner case: feeding the running value back clears it. -/
theorem crcRom_xor_self (c : Byte) : crcRom (c ^^^ c) = 0x00 := by
  rw [BitVec.xor_self]
  exact crcRom_zero

/-! ### Decoding -/

theorem decode_crc8Upd (b : Byte) : decode .cmd [0x11, b] = some (.crc8Upd b) := rfl

/-- R72, R73: a count that agrees with the bytes after it. -/
theorem decode_crc8Buf {n0 n1 : Byte} {bytes : List Byte} (h : bytes.length = n0.toNat + 256 * n1.toNat) :
    decode .cmd (0x13 :: n0 :: n1 :: bytes) = some (.crc8Buf bytes) :=
  have hcount : bytes.length = leNat [n0, n1] := by simpa [leNat] using h
  if_pos hcount

/-! ### Execution -/

/-- Both operations that write a new running value also answer it (R103, R105). -/
theorem respond_setCrc (c : Byte) (s : State) :
    respond .ok [c] (s.setCrc c) = .next { s with crc := c, res := [0x00, c] } :=
  respond_eq .ok [c] (s.setCrc c)

theorem exec_crc8Upd (b : Byte) (s : State) :
    exec (.crc8Upd b) s =
      .next { s with crc := crcRom (s.crc ^^^ b), res := [0x00, crcRom (s.crc ^^^ b)] } :=
  respond_setCrc (crcRom (s.crc ^^^ b)) s

theorem exec_crc8Buf (bytes : List Byte) (s : State) :
    exec (.crc8Buf bytes) s = .next { s with crc := crc8 bytes, res := [0x00, crc8 bytes] } :=
  respond_setCrc (crc8 bytes) s

/-! ### The statements -/

/-- Settles O3: `crc8` is the fold, whatever `crc` held before. -/
theorem crcBufIsCrc8OfTheBytes : Obligations.CrcBufIsCrc8OfTheBytes := by
  intro n0 n1 bytes s hlen
  refine ⟨decode_crc8Buf hlen, ?_⟩
  rw [exec_crc8Buf, crc8_eq_foldl]

/-- Settles O2: the table's entry at 0 is 0, which is the corner case. -/
theorem crcUpdFeedsOneByte : Obligations.CrcUpdFeedsOneByte := by
  intro b s
  refine ⟨decode_crc8Upd b, exec_crc8Upd b s, ?_⟩
  rintro rfl
  exact crcRom_xor_self s.crc

end Sys2Proof.Machine
end

section
/-! PROOFS. The frame encoder: the one effect of every encode operation that raises nothing, and the two operations whose arguments
are bytes of their transaction as they stand. -/

namespace Sys2Proof.Machine

/-! ### The frame -/

/-- R60, R120: the header, the arguments, zeros up to 49 bytes. -/
theorem frame_eq_header (cmd sub : Byte) (args : List Byte) (s : State) :
    frame cmd s.seq sub args = Claims.header s cmd sub ++ args ++ List.replicate (46 - args.length) 0 := by
  simp [frame_eq, Claims.header]

/-- A buffer holds 0x00 after the bytes written into it whole. -/
theorem Memory.byte_ofBytes_of_length_le {bs : List Byte} {a : Nat} (h : bs.length ≤ a) :
    Memory.byte (Memory.ofBytes bs) a = 0 := by
  rw [Memory.byte_ofBytes, List.getD_eq_default _ _ h]

/-! ### Execution -/

/-- R112, R120: the frame stands in `TXBUF` and on the RES port, `seq` has advanced, and the rest is as it was. -/
theorem sendFrame_sent {cmd sub : Byte} {args : List Byte} (h : args.length ≤ 46) (s : State) :
    ∃ t, sendFrame cmd sub args s = .next t ∧
      Claims.Sent s t (Claims.header s cmd sub ++ args ++ List.replicate (46 - args.length) 0) := by
  have hlen := frame_length cmd s.seq sub args h
  rw [← frame_eq_header]
  exact ⟨_, sendFrame_eq cmd sub args s,
    { tx := txBytes_setTx s _ hlen
      outside := fun _ ha => Memory.byte_ofBytes_of_length_le (hlen.trans_le ha)
      res := rfl
      seq := rfl
      frame := ⟨rfl, rfl, rfl, rfl, rfl, rfl⟩ }⟩

theorem exec_encInfo (cmd : Byte) (s : State) : exec (.encInfo cmd) s = sendFrame cmd 0x02 [] s := rfl

theorem exec_encMode (cmd mode : Byte) (s : State) : exec (.encMode cmd mode) s = sendFrame cmd 0x03 [mode] s := rfl

/-! ### Decoding -/

theorem decode_encInfo (cmd : Byte) : decode .cmd [0x30, cmd] = some (.encInfo cmd) := rfl

theorem decode_encMode (cmd mode : Byte) : decode .cmd [0x31, cmd, mode] = some (.encMode cmd mode) := rfl

/-! ### The statements -/

/-- Settles O9: a frame without arguments. -/
theorem encInfoBuildsItsFrame : Obligations.EncInfoBuildsItsFrame := by
  intro cmd s
  refine ⟨decode_encInfo cmd, ?_⟩
  rw [exec_encInfo]
  exact sendFrame_sent (args := []) (by simp) s

/-- Settles O10: the mode is the one argument. -/
theorem encModeBuildsItsFrame : Obligations.EncModeBuildsItsFrame := by
  intro cmd mode s
  refine ⟨decode_encMode cmd mode, ?_⟩
  rw [exec_encMode]
  exact sendFrame_sent (args := [mode]) (by simp) s

end Sys2Proof.Machine
end

section
/-! PROOFS. The frame decoder: the acknowledgment code a response carries, and its comparison with an expected one. -/

namespace Sys2Proof.Machine

/-! ### The acknowledgment code -/

/-- R43: a two-byte field of a buffer, its second byte high. -/
theorem ofNat_read_two (m : Memory) (a : Nat) :
    BitVec.ofNat 16 (Memory.read m a 2) = Memory.byte m (a + 1) ++ Memory.byte m a :=
  le16_pair (Memory.byte m a) (Memory.byte m (a + 1))

/-- R133: a response too short for a code raises its status; any other gives the code, all 16 bits of it. -/
theorem readAck_cases (s : State) :
    (∃ st, readAck s = .error st ∧ Claims.ackRaises s = some st.code) ∨
    (readAck s = .ok (Claims.ackOf s) ∧ Claims.ackRaises s = none) := by
  unfold readAck Claims.ackRaises
  by_cases hzero : s.rxLen = 0
  · exact .inl ⟨.timeout, by simp [hzero], by simp [hzero, Status.code]⟩
  by_cases hshort : s.rxLen < 0xF
  · exact .inl ⟨.ackMismatch, by simp [hzero, hshort], by simp [hzero, hshort, Status.code]⟩
  · refine .inr ⟨?_, by simp [hzero, hshort]⟩
    rw [if_neg hzero, if_neg hshort, ofNat_read_two]
    rfl

theorem matchAck_of_error {s : State} {st : Status} (h : readAck s = .error st) (exp : Word) :
    matchAck exp s = .error st := by
  simp [matchAck, h]

theorem matchAck_of_ok {s : State} {ack : Word} (h : readAck s = .ok ack) (exp : Word) :
    matchAck exp s = if ack = exp then .ok () else .error .ackMismatch := by
  simp [matchAck, h]

/-! ### DEC.MATCH -/

theorem decode_decMatch (e0 e1 : Byte) : decode .cmd [0x42, e0, e1] = some (.decMatch (e1 ++ e0)) := by
  rw [← le16_pair]
  rfl

theorem exec_decMatch (exp : Word) (s : State) :
    exec (.decMatch exp) s = answer ((matchAck exp s).map fun _ => []) s := rfl

/-- R134: a status raised before a code can be compared is the answer. -/
theorem exec_decMatch_of_error {s : State} {st : Status} (h : readAck s = .error st) (exp : Word) :
    exec (.decMatch exp) s = .next (s.setRes [st.code]) := by
  rw [exec_decMatch, matchAck_of_error h]
  rfl

/-- R134: the status is the outcome of the comparison. -/
theorem exec_decMatch_of_ok {s : State} {ack : Word} (h : readAck s = .ok ack) (exp : Word) :
    exec (.decMatch exp) s = .next (s.setRes (if ack = exp then [0x00] else [0x02])) := by
  rw [exec_decMatch, matchAck_of_ok h]
  split <;> rfl

/-- Settles O16, by whether the response is long enough to hold a code. -/
theorem decMatchComparesTheCode : Obligations.DecMatchComparesTheCode := by
  intro e0 e1 s
  refine ⟨decode_decMatch e0 e1, ?_⟩
  obtain ⟨st, hread, hraises⟩ | ⟨hread, hraises⟩ := readAck_cases s
  · rw [hraises]
    exact exec_decMatch_of_error hread _
  · rw [hraises]
    exact exec_decMatch_of_ok hread _

end Sys2Proof.Machine
end

section
/-! PROOFS. The triplet packer: the two values of a triplet, and what TRI.UNPK answers. -/

namespace Sys2Proof.Machine

/-! ### The values of a triplet -/

/-- R151: the low byte of `a` is `t0`; above it stands the low nibble of `t1`. -/
theorem word16_tripletA (t0 t1 : Byte) : word16 (tripletA t0 t1) = [t0, t1 &&& 0xF] := by
  have hlow : (tripletA t0 t1).extractLsb' 0 8 = t0 := by
    ext i hi
    have hword : i < 16 := by omega
    simp [tripletA, hi, hword]
  have hhigh : (tripletA t0 t1).extractLsb' 8 8 = t1 &&& 0xF := by
    ext i hi
    have hword : i < 16 ∧ 8 + i < 16 := by omega
    simp [tripletA, hi, hword, ← BitVec.getLsbD_eq_getElem, BitVec.getLsbD_ofNat]
  rw [word16_eq, hlow, hhigh]

/-- R151: the low byte of `b` is the high nibble of `t1` under the low nibble of `t2`; above it stands the high nibble of `t2`. -/
theorem word16_tripletB (t1 t2 : Byte) : word16 (tripletB t1 t2) = [(t1 >>> 4) ||| (t2 <<< 4), t2 >>> 4] := by
  have hlow : (tripletB t1 t2).extractLsb' 0 8 = (t1 >>> 4) ||| (t2 <<< 4) := by
    ext i hi
    have hword : i < 16 ∧ 4 + i < 16 ∧ i - 4 < 16 := by omega
    have hbyte : i - 4 < 8 := by omega
    simp [tripletB, hword, BitVec.getLsbD_eq_getElem hbyte]
  have hhigh : (tripletB t1 t2).extractLsb' 8 8 = t2 >>> 4 := by
    ext i hi
    have habove : t1.getLsbD (4 + (8 + i)) = false := t1.getLsbD_of_ge _ (by omega)
    have hshift : 8 + i - 4 = 4 + i := by omega
    have hword : 8 + i < 16 ∧ 4 + i < 16 ∧ ¬ 8 + i < 4 := by omega
    simp [tripletB, habove, hshift, hword]
  rw [word16_eq, hlow, hhigh]

/-! ### TRI.UNPK -/

theorem decode_triUnpk (t0 t1 t2 : Byte) : decode .cmd [0x51, t0, t1, t2] = some (.triUnpk t0 t1 t2) := rfl

theorem exec_triUnpk (t0 t1 t2 : Byte) (s : State) :
    exec (.triUnpk t0 t1 t2) s =
      .next (Claims.answers s (0x00 :: (word16 (tripletA t0 t1) ++ word16 (tripletB t1 t2)))) :=
  respond_eq .ok _ s

/-- Settles O23, by the bytes of each of the two values. -/
theorem triUnpkUnpacks : Obligations.TriUnpkUnpacks := by
  intro t0 t1 t2 s
  refine ⟨decode_triUnpk t0 t1 t2, ?_⟩
  rw [exec_triUnpk, word16_tripletA, word16_tripletB]
  rfl

end Sys2Proof.Machine
end

section
/-! PROOFS. The encoding (30_encoding.md): decoding and encoding are inverse to each other, and the transactions that decode are those
whose length R73 gives. -/

namespace Sys2Proof

/-! ### Byte strings with a count -/

/-- R72: the count in front of a byte string of at most 16 bits of length spells its length. -/
theorem counted_eq {bytes : List Byte} (h : countFits bytes = true) :
    ∃ n0 n1, counted bytes = n0 :: n1 :: bytes ∧ bytes.length = leNat [n0, n1] := by
  have hlt : bytes.length < 2 ^ 16 := of_decide_eq_true h
  refine ⟨BitVec.ofNat 8 bytes.length, BitVec.ofNat 8 (bytes.length / 256), rfl, ?_⟩
  simp only [leNat, BitVec.toNat_ofNat]
  omega

/-- R72: a count that agrees with the bytes after it is the one the encoder writes. -/
theorem counted_of_length {n0 n1 : Byte} {bytes : List Byte} (h : bytes.length = leNat [n0, n1]) :
    counted bytes = n0 :: n1 :: bytes ∧ countFits bytes = true := by
  have hcount := leBytes_leNat [n0, n1]
  have hlt := leNat_lt [n0, n1]
  simp only [List.length_cons, List.length_nil, Nat.zero_add, Nat.reduceAdd, Nat.reducePow] at hcount hlt
  refine ⟨by rw [counted, h, hcount]; rfl, ?_⟩
  simp only [countFits, h, decide_eq_true_eq]
  exact hlt

/-! ### Responses -/

/-- The row of a response with this code (R70, R83). -/
def responseRow (code : Word) (head rest : List Byte) : Option Instr :=
  if code = Config.ackInfo then some (.respInfo head rest)
  else if code = Config.ackSpiw then some (.respSpiw head rest)
  else if code = Config.ackSerial then some (.respSerial head rest)
  else none

theorem decodeRx_eq (bytes : List Byte) :
    decodeRx bytes = if 15 ≤ bytes.length ∧ bytes.length ≤ Config.respMax then
      responseRow (le16 ((bytes.drop 13).take 2)) (bytes.take 13) (bytes.drop 15) else none := rfl

/-- R70, R83: the row of a response is chosen by the code between its two parts. -/
theorem decodeRx_append {head rest : List Byte} (code : Word) (h : respFits head rest = true) :
    decodeRx (head ++ leBytes 2 code.toNat ++ rest) = responseRow code head rest := by
  have hlen := Laws.EncodedLength.resp_length code h
  simp only [respFits, Bool.and_eq_true, beq_iff_eq, Config.ackPos] at h
  have hhead : head.length = 13 := h.1
  have htake : (head ++ leBytes 2 code.toNat ++ rest).take 13 = head := by simp [hhead]
  have hcode : ((head ++ leBytes 2 code.toNat ++ rest).drop 13).take 2 = leBytes 2 code.toNat := by simp [hhead]
  have hdrop : (head ++ leBytes 2 code.toNat ++ rest).drop 15 = rest := by simp [hhead, List.drop_append]
  rw [decodeRx_eq, htake, hcode, hdrop, le16_leBytes]
  exact if_pos hlen

/-- R83: a response is its 13 bytes before the code, the code, and the bytes after it. -/
theorem response_parts {bytes : List Byte} (h : 15 ≤ bytes.length) :
    bytes.take 13 ++ leBytes 2 (le16 ((bytes.drop 13).take 2)).toNat ++ bytes.drop 15 = bytes := by
  obtain ⟨a, b, hab⟩ : ∃ a b, (bytes.drop 13).take 2 = [a, b] := by
    apply List.length_eq_two.1
    simp; omega
  rw [hab, leBytes_le16, ← hab, List.append_assoc]
  have hsplit := List.take_append_drop 2 (bytes.drop 13)
  rw [List.drop_drop] at hsplit
  rw [hsplit, List.take_append_drop]

/-- R83: what `decodeRx` accepts is the encoding of the row it answers. -/
theorem encode_of_decodeRx {bytes : List Byte} {i : Instr} (h : decodeRx bytes = some i) :
    i.port = .rx ∧ i.wf = true ∧ encode i = bytes := by
  rw [decodeRx_eq] at h
  split at h
  · rename_i hlen
    have hparts := response_parts hlen.1
    have hfits : respFits (bytes.take 13) (bytes.drop 15) = true := by
      simp only [Config.respMax] at hlen
      simp [respFits, Config.ackPos, Config.respMax]; omega
    unfold responseRow at h
    split at h
    case isTrue hcode => rw [hcode] at hparts; cases h; exact ⟨rfl, hfits, hparts⟩
    split at h
    case isTrue hcode => rw [hcode] at hparts; cases h; exact ⟨rfl, hfits, hparts⟩
    split at h
    case isTrue hcode => rw [hcode] at hparts; cases h; exact ⟨rfl, hfits, hparts⟩
    cases h
  · cases h

/-! ### Frames -/

/-- R64: a byte below 16 is the timer nibble with zero high bits. -/
theorem setWidth_timer {t : Byte} (h : t.toNat < 16) : (t.setWidth 4).setWidth 8 = t := by
  apply BitVec.eq_of_toNat_eq
  simp only [BitVec.toNat_setWidth]
  omega

/-- R60: 46 bytes after the subcommand, all zero from some point on, are the frame of the bytes before that point. -/
theorem frame_of_zeros {cmd t sub : Byte} {args pad : List Byte} (ht : t.toNat < 16) (hlen : (args ++ pad).length = 46)
    (hpad : allZero pad = true) : frame cmd (t.setWidth 4) sub args = cmd :: t :: sub :: (args ++ pad) := by
  have hzeros : 46 - args.length = pad.length := by simp only [List.length_append] at hlen; omega
  rw [frame_eq, setWidth_timer ht, hzeros, ← allZero_eq_replicate hpad]

/-- R60, R125: the argument bytes of an SPI-write frame whose size field says `n`. -/
theorem spiwArgs_of_size {o0 o1 o2 o3 n0 n1 : Byte} {data : List Byte} (h : data.length = leNat [n0, n1]) :
    spiwArgs (le32 [o0, o1, o2, o3]) data = o0 :: o1 :: o2 :: o3 :: n0 :: n1 :: (List.replicate 7 0 ++ data) := by
  have hcount := leBytes_leNat [n0, n1]
  simp only [List.length_cons, List.length_nil, Nat.zero_add, Nat.reduceAdd] at hcount
  simp [spiwArgs, spiArgs, h, hcount]

/-- R60: the tests that every frame passes. -/
theorem decodeTx_some {bytes : List Byte} {i : Instr} (h : decodeTx bytes = some i) :
    ∃ cmd t sub args, bytes = cmd :: t :: sub :: args ∧ args.length = 46 ∧ t.toNat < 16 := by
  unfold decodeTx at h
  split at h
  · split at h
    · rename_i hlen
      exact ⟨_, _, _, _, rfl, hlen.1, hlen.2⟩
    · cases h
  · cases h

/-- R60, R83: what `decodeTx` accepts is the encoding of the frame it answers. -/
theorem encode_of_decodeTx {bytes : List Byte} {i : Instr} (h : decodeTx bytes = some i) :
    i.port = .tx ∧ i.wf = true ∧ encode i = bytes := by
  obtain ⟨cmd, t, sub, args, rfl, hlen, ht⟩ := decodeTx_some h
  simp only [decodeTx, hlen, ht, and_self, if_true] at h
  split at h
  case isTrue hsub =>
    split at h
    · rename_i hz
      cases h
      exact ⟨rfl, rfl, by simpa [encode, hsub] using frame_of_zeros (args := []) ht hlen hz⟩
    · cases h
  split at h
  case isTrue hsub =>
    split at h
    · rename_i mode pad
      split at h
      · rename_i hz
        cases h
        exact ⟨rfl, rfl, by simpa [encode, hsub] using frame_of_zeros (args := [mode]) ht hlen hz⟩
      · cases h
    · cases h
  split at h
  case isTrue hsub =>
    split at h
    · rename_i o0 o1 o2 o3 s0 s1 pad
      split at h
      · rename_i hz
        cases h
        refine ⟨rfl, rfl, ?_⟩
        simpa [encode, spiArgs, hsub] using frame_of_zeros (args := [o0, o1, o2, o3, s0, s1]) ht hlen hz
      · cases h
    · cases h
  split at h
  case isTrue hsub =>
    split at h
    · rename_i o0 o1 o2 o3 n0 n1 z0 z1 z2 z3 z4 z5 z6 rest
      split at h
      · rename_i htests
        obtain ⟨hn, hz, hpad⟩ := htests
        cases h
        have hn' : leNat [n0, n1] ≤ 29 := hn
        have hdata : (rest.take (leNat [n0, n1])).length = leNat [n0, n1] := by
          simp only [List.length_cons] at hlen
          simp; omega
        have hseven : [z0, z1, z2, z3, z4, z5, z6] = List.replicate 7 0 := allZero_eq_replicate hz
        have hargs := spiwArgs_of_size (o0 := o0) (o1 := o1) (o2 := o2) (o3 := o3) hdata
        rw [← hseven] at hargs
        refine ⟨rfl, by simp only [Instr.wf, hdata]; exact decide_eq_true hn, ?_⟩
        rw [encode, hargs, frame_of_zeros (pad := rest.drop (leNat [n0, n1])) ht (by simpa using hlen) hpad, hsub]
        simp
      · cases h
    · cases h
  cases h

/-! ### Transactions -/

/-- R72, R73: what `decodeCmd` accepts is the encoding of the operation it answers. -/
theorem encode_of_decodeCmd {bytes : List Byte} {i : Instr} (h : decodeCmd bytes = some i) :
    i.port = .cmd ∧ i.wf = true ∧ encode i = bytes := by
  cases bytes with
  | nil => cases h
  | cons op xs =>
    have hop : ∀ n, op.toNat = n → op = BitVec.ofNat 8 n := fun n hn => by rw [← hn, BitVec.ofNat_toNat, BitVec.setWidth_eq]
    simp only [decodeCmd] at h
    split at h
    case h_19 => cases h
    all_goals
      rename_i hsel
      obtain rfl := hop _ hsel
    case h_4 | h_9 | h_10 =>
      split at h
      case h_2 => cases h
      split at h
      case isFalse => cases h
      rename_i hlen
      obtain ⟨hcounted, hfits⟩ := counted_of_length hlen
      cases h
      exact ⟨rfl, hfits, by simp [encode, hcounted]⟩
    all_goals
      split at h
      case h_2 => cases h
      cases h
      exact ⟨rfl, rfl, by simp [encode]⟩

/-! ### Lawful transactions -/

/-- R73: an encoded operation has the length of the table. -/
theorem lawful_encode {i : Instr} (hp : i.port = .cmd) (hwf : i.wf = true) : Claims.lawfulTransaction (encode i) := by
  cases i with
  | crc8Buf bytes =>
    obtain ⟨n0, n1, hcounted, hlen⟩ := counted_eq hwf
    simp [Claims.lawfulTransaction, encode, hcounted, hlen, leNat]; omega
  | encSpiw cmd offset data =>
    obtain ⟨n0, n1, hcounted, hlen⟩ := counted_eq hwf
    simp [Claims.lawfulTransaction, encode, hcounted, hlen, leNat, leBytes_offset]; omega
  | rxLoad bytes =>
    obtain ⟨n0, n1, hcounted, hlen⟩ := counted_eq hwf
    simp [Claims.lawfulTransaction, encode, hcounted, hlen, leNat]; omega
  | frameInfo | frameMode | frameSpir | frameSpiw | respInfo | respSpiw | respSerial => cases hp
  | _ => simp [Claims.lawfulTransaction, encode]

/-- R72, R73: a select code with a length of the table decodes. -/
theorem decode_of_lawful {ct : List Byte} (h : Claims.lawfulTransaction ct) : ∃ i, decode .cmd ct = some i := by
  cases ct with
  | nil => exact h.elim
  | cons op xs =>
    simp only [Claims.lawfulTransaction, List.mem_cons, List.not_mem_nil, or_false, List.length_cons] at h
    rcases h with ⟨hop, hlen⟩ | ⟨hop, hlen⟩ | ⟨hop, hlen⟩ | ⟨hop, hmin, hlen⟩ | ⟨rfl, hlen⟩ | ⟨rfl, hlen⟩ | ⟨rfl, hlen⟩ | ⟨rfl, hlen⟩ |
      ⟨rfl, hmin, hlen⟩ | ⟨rfl, hlen⟩
    · match xs, hlen with
      | [], _ => rcases hop with rfl | rfl | rfl | rfl | rfl | rfl <;> exact ⟨_, rfl⟩
    · match xs, hlen with
      | [_], _ => rcases hop with rfl | rfl <;> exact ⟨_, rfl⟩
    · match xs, hlen with
      | [_, _], _ => rcases hop with rfl | rfl <;> exact ⟨_, rfl⟩
    · match xs, hmin, hlen with
      | n0 :: n1 :: bytes, _, hlen =>
        have hcount : bytes.length = leNat [n0, n1] := by
          simp [leNat] at hlen ⊢; omega
        rcases hop with rfl | rfl <;> exact ⟨_, if_pos hcount⟩
    · match xs, hlen with
      | [_, _, _], _ => exact ⟨_, rfl⟩
    · match xs, hlen with
      | [_, _, _, _], _ => exact ⟨_, rfl⟩
    · match xs, hlen with
      | [_, _, _, _, _, _], _ => exact ⟨_, rfl⟩
    · match xs, hlen with
      | [_, _, _, _, _, _, _], _ => exact ⟨_, rfl⟩
    · match xs, hmin, hlen with
      | _ :: _ :: _ :: _ :: _ :: n0 :: n1 :: data, _, hlen =>
        have hcount : data.length = leNat [n0, n1] := by
          simp [leNat] at hlen ⊢; omega
        exact ⟨_, if_pos hcount⟩
    · match xs, hlen with
      | [_, _, _, _, _, _, _, _, _, _, _, _, _, _, _, _], _ => exact ⟨_, rfl⟩

/-! ### The statements -/

/-- Settles O47, port by port. -/
theorem encodeDecode : Obligations.EncodeDecode := by
  intro p bytes i h
  cases p with
  | cmd => exact encode_of_decodeCmd h
  | tx => exact encode_of_decodeTx h
  | rx => exact encode_of_decodeRx h

/-- Settles O46, row by row: counted byte strings, frames and responses by the lemmas of their form. -/
theorem decodeEncode : Obligations.DecodeEncode := by
  intro i hwf
  cases i with
  | crc8Buf bytes =>
    obtain ⟨n0, n1, hcounted, hlen⟩ := counted_eq hwf
    simp [Instr.port, encode, decode, decodeCmd, hcounted, hlen]
  | encSpiw cmd offset data =>
    obtain ⟨n0, n1, hcounted, hlen⟩ := counted_eq hwf
    simp [Instr.port, encode, decode, decodeCmd, hcounted, hlen, leBytes_offset, le32_extract]
  | rxLoad bytes =>
    obtain ⟨n0, n1, hcounted, hlen⟩ := counted_eq hwf
    simp [Instr.port, encode, decode, decodeCmd, hcounted, hlen]
  | frameInfo cmd timer => exact decode_frame_info cmd timer
  | frameMode cmd timer mode => exact decode_frame_mode cmd timer mode
  | frameSpir cmd timer offset size => exact decode_frame_spir cmd timer offset size
  | frameSpiw cmd timer offset data => exact decode_frame_spiw cmd timer offset data (of_decide_eq_true hwf)
  | respInfo head rest => exact decodeRx_append Config.ackInfo hwf
  | respSpiw head rest => exact decodeRx_append Config.ackSpiw hwf
  | respSerial head rest => exact decodeRx_append Config.ackSerial hwf
  | _ => simp [Instr.port, encode, decode, decodeCmd, leBytes_offset, leBytes_word, le32_extract, le16_extract]

/-- Settles O48, by evaluation. -/
theorem sampleWordsDecode : Obligations.SampleWordsDecode := by
  unfold Obligations.SampleWordsDecode
  decide

/-- Settles O38: a transaction that decodes is the encoding of what it decodes to. -/
theorem lawfulTransactionsAreTheDecodableOnes : Obligations.LawfulTransactionsAreTheDecodableOnes := by
  intro ct
  refine ⟨fun ⟨i, hi⟩ => ?_, decode_of_lawful⟩
  obtain ⟨hp, hwf, rfl⟩ := encode_of_decodeCmd hi
  exact lawful_encode hp hwf

end Sys2Proof
end

section
/-! PROOFS. The triplet packer, as arithmetic: the numbers of a triplet, the bytes of a pair, that packing and unpacking are inverse to
each other, and the samples of a report. -/

namespace Sys2Proof.Machine

/-! ### The numbers of a triplet, the bytes of a pair -/

theorem isU12_iff (v : Word) : isU12 v = true ↔ v.toNat ≤ 0xFFF := by
  simp [isU12]

/-- R44: a 16-bit value from its two bytes. -/
theorem toNat_of_word16 {v : Word} {a b : Byte} (h : word16 v = [a, b]) : v.toNat = a.toNat + 256 * b.toNat := by
  have hv : v = b ++ a := by rw [← le16_pair, ← h, word16, le16_leBytes]
  rw [hv, toNat_append_bytes]

/-- The low nibble of a byte. -/
theorem toNat_and_nibble (b : Byte) : (b &&& 0xF).toNat = b.toNat % 16 := by
  rw [BitVec.toNat_and]
  exact Nat.and_two_pow_sub_one_eq_mod b.toNat 4

/-- The high nibble of a byte. -/
theorem toNat_ushiftRight_nibble (b : Byte) : (b >>> 4).toNat = b.toNat / 16 := by
  rw [BitVec.toNat_ushiftRight, Nat.shiftRight_eq_div_pow]

/-- A nibble under the low nibble of a byte. -/
theorem toNat_nibble_or_shiftLeft {x : Byte} (h : x.toNat < 16) (y : Byte) :
    (x ||| (y <<< 4)).toNat = x.toNat + 16 * (y.toNat % 16) := by
  have hshift : (y <<< 4).toNat = (y.toNat % 16) <<< 4 := by
    rw [BitVec.toNat_shiftLeft, Nat.shiftLeft_eq, Nat.shiftLeft_eq]
    omega
  have hadd : (y.toNat % 16) <<< 4 + x.toNat = (y.toNat % 16) <<< 4 ||| x.toNat := Nat.shiftLeft_add_eq_or_of_lt h _
  rw [BitVec.toNat_or, hshift, Nat.or_comm, ← hadd, Nat.shiftLeft_eq]
  omega

/-- R67: the first value of a triplet. -/
theorem tripletA_toNat (t0 t1 : Byte) : (tripletA t0 t1).toNat = t0.toNat + 256 * (t1.toNat % 16) := by
  rw [toNat_of_word16 (word16_tripletA t0 t1), toNat_and_nibble]

/-- R67: the second value of a triplet. -/
theorem tripletB_toNat (t1 t2 : Byte) : (tripletB t1 t2).toNat = t1.toNat / 16 + 16 * t2.toNat := by
  have h1 := t1.isLt
  have hnibble : (t1 >>> 4).toNat < 16 := by rw [toNat_ushiftRight_nibble]; omega
  rw [toNat_of_word16 (word16_tripletB t1 t2), toNat_nibble_or_shiftLeft hnibble, toNat_ushiftRight_nibble, toNat_ushiftRight_nibble]
  omega

theorem isU12_tripletA (t0 t1 : Byte) : isU12 (tripletA t0 t1) = true := by
  have h0 := t0.isLt
  rw [isU12_iff, tripletA_toNat]
  omega

theorem isU12_tripletB (t1 t2 : Byte) : isU12 (tripletB t1 t2) = true := by
  have h1 := t1.isLt
  have h2 := t2.isLt
  rw [isU12_iff, tripletB_toNat]
  omega

/-- R151, R152: the three bytes of two 12-bit values. -/
theorem tripletBytes_eq {a b : Word} (ha : a.toNat ≤ 0xFFF) : tripletBytes a b =
    [BitVec.ofNat 8 a.toNat, BitVec.ofNat 8 (b.toNat % 16 * 16 + a.toNat / 256), BitVec.ofNat 8 (b.toNat / 16)] := by
  have hlow : ∀ v : Word, (v &&& 0xFF).toNat = v.toNat % 256 := fun v => by
    rw [BitVec.toNat_and]
    exact Nat.and_two_pow_sub_one_eq_mod v.toNat 8
  have hnibble : ∀ v : Word, (v &&& 0xF).toNat = v.toNat % 16 := fun v => by
    rw [BitVec.toNat_and]
    exact Nat.and_two_pow_sub_one_eq_mod v.toNat 4
  have hmiddle : (((b &&& 0xF) <<< 4) ||| ((a >>> 8) &&& 0xF)).toNat = b.toNat % 16 * 16 + a.toNat / 256 := by
    have hshift : ((b &&& 0xF) <<< 4).toNat = (b.toNat % 16) <<< 4 := by
      rw [BitVec.toNat_shiftLeft, hnibble, Nat.shiftLeft_eq]
      omega
    have hhigh : ((a >>> 8) &&& 0xF).toNat = a.toNat / 256 := by
      rw [hnibble, BitVec.toNat_ushiftRight, Nat.shiftRight_eq_div_pow]
      omega
    have hadd : (b.toNat % 16) <<< 4 + a.toNat / 256 = (b.toNat % 16) <<< 4 ||| a.toNat / 256 :=
      Nat.shiftLeft_add_eq_or_of_lt (by omega) _
    rw [BitVec.toNat_or, hshift, hhigh, ← hadd, Nat.shiftLeft_eq]
  have hsetWidth : ∀ v : Word, v.setWidth 8 = BitVec.ofNat 8 v.toNat := fun v => by simp
  have hthird : ((b >>> 4) &&& 0xFF).toNat = b.toNat / 16 % 256 := by
    rw [hlow, BitVec.toNat_ushiftRight, Nat.shiftRight_eq_div_pow]
  have hmod : ∀ n, BitVec.ofNat 8 (n % 256) = BitVec.ofNat 8 n := fun n => by
    apply BitVec.eq_of_toNat_eq
    simp
  rw [tripletBytes, hsetWidth, hsetWidth, hsetWidth, hlow, hmiddle, hthird, hmod, hmod]

/-- R154: the values of the packed bytes. -/
theorem triplet_of_tripletBytes {a b : Word} (ha : a.toNat ≤ 0xFFF) (hb : b.toNat ≤ 0xFFF) :
    ∃ t0 t1 t2, tripletBytes a b = [t0, t1, t2] ∧ tripletA t0 t1 = a ∧ tripletB t1 t2 = b := by
  refine ⟨_, _, _, tripletBytes_eq ha, ?_, ?_⟩ <;> apply BitVec.eq_of_toNat_eq
  · rw [tripletA_toNat, BitVec.toNat_ofNat, BitVec.toNat_ofNat]
    omega
  · rw [tripletB_toNat, BitVec.toNat_ofNat, BitVec.toNat_ofNat]
    omega

/-- R154: the bytes of the unpacked values. -/
theorem tripletBytes_of_triplet (t0 t1 t2 : Byte) : tripletBytes (tripletA t0 t1) (tripletB t1 t2) = [t0, t1, t2] := by
  have h0 := t0.isLt
  have h1 := t1.isLt
  have h2 := t2.isLt
  have hbyte : ∀ {n : Nat} {t : Byte}, n % 256 = t.toNat → BitVec.ofNat 8 n = t := fun h => by
    apply BitVec.eq_of_toNat_eq
    rw [BitVec.toNat_ofNat]
    exact h
  rw [tripletBytes_eq ((isU12_iff _).1 (isU12_tripletA t0 t1)), tripletA_toNat, tripletB_toNat,
    hbyte (t := t0) (by omega), hbyte (t := t1) (by omega), hbyte (t := t2) (by omega)]

/-! ### TRI.PACK -/

theorem exec_triPack (a b : Word) (s : State) :
    exec (.triPack a b) s = .next (Claims.answers s (
      if a.toNat ≤ 0xFFF ∧ b.toNat ≤ 0xFFF then 0x00 :: tripletBytes a b else [0x11])) := by
  by_cases h : a.toNat ≤ 0xFFF ∧ b.toNat ≤ 0xFFF
  · have hu12 : (isU12 a && isU12 b) = true := by simp [isU12_iff, h]
    rw [if_pos h]
    exact if_pos hu12
  · have hu12 : ¬ (isU12 a && isU12 b) = true := by simpa [isU12_iff] using h
    rw [if_neg h]
    exact if_neg hu12

theorem decode_triPack (a0 a1 b0 b1 : Byte) : decode .cmd [0x50, a0, a1, b0, b1] = some (.triPack (a1 ++ a0) (b1 ++ b0)) := by
  rw [← le16_pair, ← le16_pair]
  rfl

/-- Settles O22: a 16-bit value has 12 bits if its high byte is a nibble. -/
theorem triPackPacksOrRefuses : Obligations.TriPackPacksOrRefuses := by
  intro a0 a1 b0 b1 s
  refine ⟨decode_triPack a0 a1 b0 b1, ?_⟩
  have hu12 : ∀ x y : Byte, (y ++ x : Word).toNat ≤ 0xFFF ↔ y.toNat < 16 := fun x y => by
    have hx := x.isLt
    rw [toNat_append_bytes]
    omega
  have hiff : ((a1 ++ a0 : Word).toNat ≤ 0xFFF ∧ (b1 ++ b0 : Word).toNat ≤ 0xFFF) ↔ a1.toNat < 16 ∧ b1.toNat < 16 := by
    rw [hu12, hu12]
  rw [exec_triPack]
  by_cases h : a1.toNat < 16 ∧ b1.toNat < 16
  · rw [if_pos h, if_pos (hiff.2 h), tripletBytes_eq (hiff.2 h).1, toNat_append_bytes, toNat_append_bytes]
    have ha0 := a0.isLt
    have hb0 := b0.isLt
    have hnibble : (b0 >>> 4).toNat < 16 := by rw [toNat_ushiftRight_nibble]; omega
    have hfirst : BitVec.ofNat 8 (a0.toNat + 256 * a1.toNat) = a0 := by
      apply BitVec.eq_of_toNat_eq
      rw [BitVec.toNat_ofNat]
      omega
    have hsecond : BitVec.ofNat 8 ((b0.toNat + 256 * b1.toNat) % 16 * 16 + (a0.toNat + 256 * a1.toNat) / 256) = (b0 <<< 4) ||| a1 := by
      apply BitVec.eq_of_toNat_eq
      rw [BitVec.or_comm, toNat_nibble_or_shiftLeft h.1, BitVec.toNat_ofNat]
      omega
    have hthird : BitVec.ofNat 8 ((b0.toNat + 256 * b1.toNat) / 16) = (b0 >>> 4) ||| (b1 <<< 4) := by
      apply BitVec.eq_of_toNat_eq
      rw [toNat_nibble_or_shiftLeft hnibble, toNat_ushiftRight_nibble, BitVec.toNat_ofNat]
      omega
    rw [hfirst, hsecond, hthird]
  · rw [if_neg h, if_neg (mt hiff.1 h)]

/-- Settles O24: both ways by the numbers of a triplet. -/
theorem tripletRoundTrip : Obligations.TripletRoundTrip := by
  refine ⟨fun a b s ha hb => ?_, fun t0 t1 t2 s => ?_⟩
  · obtain ⟨t0, t1, t2, hbytes, hA, hB⟩ := triplet_of_tripletBytes ha hb
    refine ⟨t0, t1, t2, ?_, ?_⟩
    · rw [exec_triPack, if_pos ⟨ha, hb⟩, hbytes]
    · rw [exec_triUnpk, hA, hB, word16_eq, word16_eq]
      rfl
  · have hA := (isU12_iff _).1 (isU12_tripletA t0 t1)
    have hB := (isU12_iff _).1 (isU12_tripletB t1 t2)
    refine ⟨tripletA t0 t1, tripletB t1 t2, hA, hB, ?_, ?_⟩
    · rw [exec_triUnpk, word16_eq, word16_eq]
      rfl
    · rw [exec_triPack, if_pos ⟨hA, hB⟩, tripletBytes_of_triplet]

/-! ### SMP.UNPK -/

/-- R155: a report that is too short raises its status; any other gives its samples. -/
theorem readSample_of_short {s : State} (h : s.rxLen ≤ 12) :
    readSample s = .error (if s.rxLen = 0 then .timeout else .shortRead) := by
  unfold readSample
  split
  · rfl
  · exact if_pos h

theorem readSample_of_long {s : State} (h : 12 < s.rxLen) :
    readSample s = .ok ⟨tripletA (Claims.rx s 6) (Claims.rx s 7), tripletB (Claims.rx s 7) (Claims.rx s 8),
      tripletA (Claims.rx s 9) (Claims.rx s 10), tripletB (Claims.rx s 10) (Claims.rx s 11)⟩ := by
  rw [readSample, if_neg (by omega)]
  exact if_neg (Nat.not_le.2 h)

/-- The samples of a report are 12-bit values (R155). -/
theorem readSample_isU12 {s : State} {v : Sample} (h : readSample s = .ok v) :
    isU12 v.lx = true ∧ isU12 v.ly = true ∧ isU12 v.rx = true ∧ isU12 v.ry = true := by
  rcases Nat.lt_or_ge 12 s.rxLen with hlen | hlen
  · rw [readSample_of_long hlen] at h
    cases h
    exact ⟨isU12_tripletA _ _, isU12_tripletB _ _, isU12_tripletA _ _, isU12_tripletB _ _⟩
  · rw [readSample_of_short hlen] at h
    cases h

/-- The RES string of `SMP.UNPK` (R155). -/
def sampleRes (s : State) : List Byte :=
  if s.rxLen = 0 then [0x01]
  else if s.rxLen ≤ 12 then [0x03]
  else 0x00 :: Claims.sampleBytes (Claims.rx s 6) (Claims.rx s 7) (Claims.rx s 8) (Claims.rx s 9) (Claims.rx s 10) (Claims.rx s 11)

theorem exec_smpUnpk (s : State) : exec .smpUnpk s = .next (Claims.answers s (sampleRes s)) := by
  simp only [exec, execSmpUnpk, sampleRes]
  rcases Nat.lt_or_ge 12 s.rxLen with hlen | hlen
  · rw [readSample_of_long hlen, if_neg (by omega), if_neg (by omega)]
    simp only [Except.map, answer_ok, word16_tripletA, word16_tripletB]
    rfl
  · rw [readSample_of_short hlen]
    by_cases hzero : s.rxLen = 0
    · rw [if_pos hzero, if_pos hzero]
      rfl
    · rw [if_neg hzero, if_neg hzero, if_pos hlen]
      rfl

/-- Settles O25. -/
theorem smpUnpkReturnsTheSamples : Obligations.SmpUnpkReturnsTheSamples := ⟨rfl, exec_smpUnpk⟩

end Sys2Proof.Machine
end

section
/-! PROOFS. The arithmetic of the calibration capture (47_calibration_capture.md): the values of its formulas, and that all of them are
12-bit values. -/

namespace Sys2Proof.Machine

/-! ### 12-bit values -/

theorem isU12_freeWord (n : Nat) : isU12 (freeWord n) = true := by
  have h := (Config.freeU12 n).isLt
  rw [isU12_iff, freeWord, BitVec.toNat_setWidth]
  omega

/-! ### The formulas -/

/-- R205. -/
theorem center_toNat (t : Track) : t.center.toNat = (t.lo.toNat + t.hi.toNat) / 2 := by
  have hlo := t.lo.isLt
  have hhi := t.hi.isLt
  rw [Track.center, BitVec.toNat_ofNat]
  omega

/-- R206. -/
theorem deadzoneOf_toNat (x y : Track) (padInner : Nat) :
    (deadzoneOf x y padInner).toNat = min (max x.halfSpread y.halfSpread + padInner) 0xFFF := by
  rw [deadzoneOf, BitVec.toNat_ofNat]
  exact Nat.mod_eq_of_lt (lt_of_le_of_lt (Nat.min_le_right _ _) (by decide))

/-- R208. -/
theorem padMax_toNat (hi : Word) (pad : Nat) : (padMax hi pad).toNat = hi.toNat - pad := by
  have h := hi.isLt
  unfold padMax
  split <;> rw [BitVec.toNat_ofNat] <;> omega

/-- R208. -/
theorem padMin_toNat (lo : Word) (pad : Nat) : (padMin lo pad).toNat = min (lo.toNat + pad) 0xFFF := by
  unfold padMin
  split <;> rw [BitVec.toNat_ofNat] <;> omega

/-- R210: a spread that is not below 0. -/
theorem spread_toNat {xmin xmax ymin ymax : Word} (h : min xmin.toNat ymin.toNat ≤ max xmax.toNat ymax.toNat) (free : Nat) :
    (spread xmin xmax ymin ymax free).toNat = max xmax.toNat ymax.toNat - min xmin.toNat ymin.toNat := by
  have hx := xmax.isLt
  have hy := ymax.isLt
  rw [spread, if_pos h, BitVec.toNat_ofNat]
  omega

theorem isU12_spread {xmin xmax ymin ymax : Word} (hx : isU12 xmax = true) (hy : isU12 ymax = true) (free : Nat) :
    isU12 (spread xmin xmax ymin ymax free) = true := by
  by_cases h : min xmin.toNat ymin.toNat ≤ max xmax.toNat ymax.toNat
  · rw [isU12_iff] at hx hy ⊢
    rw [spread_toNat h]
    omega
  · rw [spread, if_neg h]
    exact isU12_freeWord free

theorem isU12_rangeRatio {xmin xmax ymin ymax : Word} (hx : isU12 xmax = true) (hy : isU12 ymax = true) (params : CaptureParams)
    (k : Kind) (free : Nat) : isU12 (rangeRatio params k xmin xmax ymin ymax free) = true := by
  unfold rangeRatio
  split
  · have h := params.rrConst.isLt
    rw [isU12_iff, BitVec.toNat_setWidth]
    omega
  · exact isU12_spread hx hy free

/-! ### Accumulators and results stay legal -/

theorem Track.ok_iff (t : Track) :
    t.ok = true ↔ t.lo.toNat ≤ 0xFFF ∧ t.hi.toNat ≤ 0xFFF ∧ (t = Track.init ∨ t.lo.toNat ≤ t.hi.toNat) := by
  simp [Track.ok, Track.isEmpty, isU12_iff, and_assoc]

theorem Track.ok_init : Track.init.ok = true := by decide

/-- R202, R215: the first value of a phase and any later one keep an accumulator legal. -/
theorem Track.ok_add {t : Track} {v : Word} (ht : t.ok = true) (hv : isU12 v = true) : (t.add v).ok = true := by
  rw [isU12_iff] at hv
  rw [Track.ok_iff] at ht ⊢
  obtain ⟨hlo, hhi, hinit | hle⟩ := ht
  · have hlo' : t.lo.toNat = 0xFFF := by rw [hinit]; rfl
    have hhi' : t.hi.toNat = 0 := by rw [hinit]; rfl
    refine ⟨?_, ?_, .inr ?_⟩ <;> simp only [Track.add] <;> split_ifs <;> omega
  · refine ⟨?_, ?_, .inr ?_⟩ <;> simp only [Track.add] <;> split_ifs <;> omega

theorem StickResult.ok_iff (r : StickResult) :
    r.ok = true ↔ isU12 r.xcenter = true ∧ isU12 r.ycenter = true ∧ isU12 r.deadzone = true ∧ isU12 r.xmin = true ∧
      isU12 r.xmax = true ∧ isU12 r.ymin = true ∧ isU12 r.ymax = true ∧ isU12 r.rangeRatio = true := by
  simp [StickResult.ok, and_assoc]

theorem isU12_center {t : Track} (h : t.ok = true) : isU12 t.center = true := by
  rw [Track.ok_iff] at h
  rw [isU12_iff, center_toNat]
  omega

theorem isU12_deadzoneOf (x y : Track) (padInner : Nat) : isU12 (deadzoneOf x y padInner) = true := by
  rw [isU12_iff, deadzoneOf_toNat]
  exact Nat.min_le_right _ _

theorem isU12_padMin (lo : Word) (pad : Nat) : isU12 (padMin lo pad) = true := by
  rw [isU12_iff, padMin_toNat]
  exact Nat.min_le_right _ _

theorem isU12_padMax {t : Track} (h : t.ok = true) (pad : Nat) : isU12 (padMax t.hi pad) = true := by
  rw [Track.ok_iff] at h
  rw [isU12_iff, padMax_toNat]
  omega

theorem ok_centerResult {x y : Track} {r : StickResult} (hx : x.ok = true) (hy : y.ok = true) (hr : r.ok = true)
    (padInner free : Nat) : (centerResult x y padInner free r).ok = true := by
  rw [StickResult.ok_iff] at hr
  obtain ⟨-, -, -, hbounds⟩ := hr
  unfold centerResult
  split
  · exact (StickResult.ok_iff _).2 ⟨isU12_freeWord _, isU12_freeWord _, isU12_freeWord _, hbounds⟩
  · exact (StickResult.ok_iff _).2 ⟨isU12_center hx, isU12_center hy, isU12_deadzoneOf x y padInner, hbounds⟩

theorem ok_rangeResult {x y : Track} {r : StickResult} (hx : x.ok = true) (hy : y.ok = true) (hr : r.ok = true)
    (params : CaptureParams) (k : Kind) (free : Nat) : (rangeResult x y params k free r).ok = true := by
  rw [StickResult.ok_iff] at hr
  obtain ⟨hxc, hyc, hdz, -⟩ := hr
  have hor : ∀ (b : Bool) (n : Nat) (v : Word), isU12 v = true → isU12 (if b then freeWord n else v) = true := by
    intro b n v hv
    cases b
    · exact hv
    · exact isU12_freeWord n
  have hxmax := hor (x.isEmpty || y.isEmpty) (free + 1) _ (isU12_padMax hx params.padOuter)
  have hymax := hor (x.isEmpty || y.isEmpty) (free + 3) _ (isU12_padMax hy params.padOuter)
  exact (StickResult.ok_iff _).2 ⟨hxc, hyc, hdz, hor _ _ _ (isU12_padMin _ _), hxmax, hor _ _ _ (isU12_padMin _ _), hymax,
    isU12_rangeRatio hxmax hymax params k (free + 4)⟩

theorem Capture.ok_iff (c : Capture) :
    c.ok = true ↔ c.lx.ok = true ∧ c.ly.ok = true ∧ c.rx.ok = true ∧ c.ry.ok = true ∧ c.left.ok = true ∧ c.right.ok = true := by
  simp [Capture.ok, and_assoc]

theorem Capture.ok_blank : Capture.blank.ok = true := by decide

/-- A choice between two legal values is legal. -/
theorem ok_ite {α : Type} {ok : α → Bool} {x y : α} (b : Bool) (hx : ok x = true) (hy : ok y = true) :
    ok (if b then x else y) = true := by
  cases b
  · exact hy
  · exact hx

theorem Capture.ok_track {c : Capture} {v : Sample} (hc : c.ok = true)
    (hv : isU12 v.lx = true ∧ isU12 v.ly = true ∧ isU12 v.rx = true ∧ isU12 v.ry = true) (k : Kind) : (c.track k v).ok = true := by
  obtain ⟨hlx, hly, hrx, hry, hleft, hright⟩ := (Capture.ok_iff c).1 hc
  obtain ⟨vlx, vly, vrx, vry⟩ := hv
  exact (Capture.ok_iff _).2 ⟨ok_ite _ (Track.ok_add hlx vlx) hlx, ok_ite _ (Track.ok_add hly vly) hly,
    ok_ite _ (Track.ok_add hrx vrx) hrx, ok_ite _ (Track.ok_add hry vry) hry, hleft, hright⟩

theorem Capture.ok_endCenter {c : Capture} (hc : c.ok = true) (k : Kind) (padInner free : Nat) :
    (c.endCenter k padInner free).ok = true := by
  obtain ⟨hlx, hly, hrx, hry, hleft, hright⟩ := (Capture.ok_iff c).1 hc
  exact (Capture.ok_iff _).2 ⟨Track.ok_init, Track.ok_init, Track.ok_init, Track.ok_init,
    ok_ite _ (ok_centerResult hlx hly hleft _ _) hleft, ok_ite _ (ok_centerResult hrx hry hright _ _) hright⟩

theorem Capture.ok_endRange {c : Capture} (hc : c.ok = true) (k : Kind) (params : CaptureParams) (free : Nat) :
    (c.endRange k params free).ok = true := by
  obtain ⟨hlx, hly, hrx, hry, hleft, hright⟩ := (Capture.ok_iff c).1 hc
  exact (Capture.ok_iff _).2 ⟨hlx, hly, hrx, hry, ok_ite _ (ok_rangeResult hlx hly hleft _ _ _) hleft,
    ok_ite _ (ok_rangeResult hrx hry hright _ _ _) hright⟩

end Sys2Proof.Machine
end

section
/-! PROOFS. The invariant of Safety.lean: what an instruction and the host's updates do to it, then every move of every task. -/

namespace Sys2Proof.Machine

/-! ### Instructions -/

/-- The addresses of the flash map (R47). -/
theorem inFlashMap_iff (a : Nat) : inFlashMap a = true ↔ Claims.mapped a := by
  have hcalL : Config.addrCalL.toNat = 0x603D := rfl
  have hcalR : Config.addrCalR.toNat = 0x6046 := rfl
  have hparL : Config.addrParL.toNat = 0x6089 := rfl
  have hparR : Config.addrParR.toNat = 0x609B := rfl
  simp only [inFlashMap, flashMap, List.any_cons, List.any_nil, Bool.or_false, Bool.or_eq_true, Bool.and_eq_true,
    decide_eq_true_eq, hcalL, hcalR, hparL, hparR, Claims.mapped]
  omega

/-- When the spec gives the outcome of a flash write (U19, R47, R251). -/
theorem writeKnown_iff (s : State) (offset : Offset) (data : List Byte) :
    writeKnown s offset data = true ↔
      s.host.settleOwed = false ∧ data ≠ [] ∧ ∀ i, i < data.length → Claims.mapped (offset.toNat + i) := by
  simp [writeKnown, inFlashMap_iff, and_assoc]

/-- A write inside the flash map stays among 32-bit addresses. -/
theorem writeKnown_lt {s : State} {offset : Offset} {data : List Byte} (h : writeKnown s offset data = true) :
    offset.toNat + data.length ≤ 2 ^ 32 := by
  obtain ⟨-, hne, hmapped⟩ := (writeKnown_iff s offset data).1 h
  have hpos := List.length_pos_of_ne_nil hne
  have hlast := hmapped (data.length - 1) (by omega)
  simp only [Claims.mapped] at hlast
  omega

/-- An instruction keeps the invariant. -/
theorem Effect.inv {s t : State} (e : Effect s t) (hs : s.Inv) : t.Inv := by
  have hhost : t.host.capture = s.host.capture ∧ t.host.agenda = s.host.agenda ∧ t.host.exchange = s.host.exchange := by
    obtain hh | hh := e.host <;> rw [hh] <;> exact ⟨rfl, rfl, rfl⟩
  obtain ⟨hcapture, hagenda, hexchange⟩ := hhost
  refine ⟨?_, ?_, ?_, hcapture ▸ hs.capture, hagenda ▸ hs.agenda, hexchange ▸ hs.exchange⟩
  · obtain htx | ⟨f, i, hlen, hdec, htx⟩ := e.tx
    · have h := hs.tx
      rwa [State.txOk, State.txBytes, ← htx] at h
    · have hbytes : t.txBytes = f := by rw [State.txBytes, htx]; exact txBytes_setTx s f hlen
      have hwf : Memory.wf (some 0) Config.frameLen t.txbuf = true := htx ▸ Memory.wf_ofBytes hlen.le
      rw [State.txOk, hwf, hbytes, hdec, Option.isSome_some, Bool.or_true, Bool.and_true]
  · obtain ⟨hbuf, hlen⟩ | ⟨bytes, hle, hbuf, hlen⟩ := e.rx
    · have h := hs.rx
      rwa [State.rxOk, ← hbuf, ← hlen] at h
    · rw [State.rxOk, hbuf, hlen, Memory.wf_ofBytes le_rfl, Bool.and_true]
      exact decide_eq_true hle
  · obtain hflash | hflash | ⟨offset, data, hknown, hflash⟩ := e.flash
    · rw [State.flashOk, hflash]; exact hs.flash
    · rw [State.flashOk, hflash]; exact Memory.wf_nil _ _
    · rw [State.flashOk, hflash]; exact Memory.wf_writeBytes (writeKnown_lt hknown) hs.flash

theorem exec_inv {i : Instr} {s t : State} (hs : s.Inv) (h : exec i s = .next t) : t.Inv := (Effect.of_exec h).inv hs

/-! ### Updates of the host and the transport -/

namespace State.Inv

variable {s : State}

theorem setTransport (hs : s.Inv) (t : Transport) : (s.setTransport t).Inv :=
  ⟨hs.tx, hs.rx, hs.flash, hs.capture, hs.agenda, hs.exchange⟩

theorem updateHost (hs : s.Inv) {h : HostState} (hc : h.capture.ok = true) (ha : h.agenda.all Task.ok = true)
    (hx : h.exchange.all Exchange.ok = true) : (s.setHost h).Inv :=
  ⟨hs.tx, hs.rx, hs.flash, hc, ha, hx⟩

/-- An update of the host that leaves capture, agenda and exchange as they were. -/
theorem setHost (hs : s.Inv) {h : HostState} (hc : h.capture = s.host.capture) (ha : h.agenda = s.host.agenda)
    (hx : h.exchange = s.host.exchange) : (s.setHost h).Inv :=
  ⟨hs.tx, hs.rx, hs.flash, hc ▸ hs.capture, ha ▸ hs.agenda, hx ▸ hs.exchange⟩

theorem setExchange (hs : s.Inv) {x : Option Exchange} (hx : x.all Exchange.ok = true) : (s.setExchange x).Inv :=
  ⟨hs.tx, hs.rx, hs.flash, hs.capture, hs.agenda, hx⟩

theorem setCapture (hs : s.Inv) {c : Capture} (hc : c.ok = true) : (s.setCapture c).Inv :=
  ⟨hs.tx, hs.rx, hs.flash, hc, hs.agenda, hs.exchange⟩

theorem plan (hs : s.Inv) {t : Task} (ht : t.ok = true) : (s.plan t).Inv :=
  ⟨hs.tx, hs.rx, hs.flash, hs.capture, by simp [ht, hs.agenda], hs.exchange⟩

theorem popTask (hs : s.Inv) : s.popTask.Inv :=
  ⟨hs.tx, hs.rx, hs.flash, hs.capture,
    List.all_eq_true.2 fun t ht => List.all_eq_true.1 hs.agenda t (List.mem_of_mem_tail ht), hs.exchange⟩

theorem popChoice (hs : s.Inv) : s.popChoice.Inv := hs.setHost rfl rfl rfl

theorem setSent (hs : s.Inv) (b : Bool) : (s.setSent b).Inv := hs.setHost rfl rfl rfl

theorem oweSettle (hs : s.Inv) : s.oweSettle.Inv := hs.setHost rfl rfl rfl

theorem settle (hs : s.Inv) : s.settle.Inv := hs.setHost rfl rfl rfl

theorem popWrite (hs : s.Inv) : s.popWrite.Inv := hs.setTransport _

theorem resetBlock (hs : s.Inv) : s.resetBlock.Inv :=
  ⟨rfl, rfl, hs.flash, hs.capture, hs.agenda, hs.exchange⟩

/-- An exchange that is dropped or kept stays legal. -/
theorem setExchange_of_cases (hs : s.Inv) {x : Option Exchange} (hx : x = none ∨ x = s.host.exchange) : (s.setExchange x).Inv := by
  obtain rfl | rfl := hx
  · exact hs.setExchange rfl
  · exact hs.setExchange hs.exchange

theorem resolve (hs : s.Inv) (r : Request) : (s.resolve r).Inv := hs.setExchange_of_cases (filter_cases _ _)

/-- A read counts no send as failed. -/
theorem popRead (hs : s.Inv) (ms : Nat) : (s.popRead ms).Inv := by
  refine ⟨hs.tx, hs.rx, hs.flash, hs.capture, hs.agenda, ?_⟩
  have h := hs.exchange
  cases hx : s.host.exchange with
  | none => simp [hx]
  | some e =>
    rw [hx] at h
    simpa [hx, Exchange.afterRead, Exchange.ok] using h

/-- One more send is counted as failed only while the retries are not exhausted. -/
theorem nextExchange_ok (hs : s.Inv) (r : Request) (complete : Bool) : (s.nextExchange r complete).ok = true := by
  have h := hs.exchange
  unfold State.nextExchange
  split
  · rename_i e he
    rw [he] at h
    split
    · rename_i hgo
      split
      · rename_i hfailed
        simp only [State.exhausted, hfailed, Bool.true_and, Bool.and_eq_true, Bool.not_eq_true', decide_eq_false_iff_not] at hgo
        exact decide_eq_true (Nat.lt_of_not_le hgo.2)
      · exact h
    · rfl
  · rfl

theorem noteWrite (hs : s.Inv) (r : Option Request) (complete : Bool) : (s.noteWrite r complete).Inv := by
  cases r with
  | none => exact hs
  | some r => exact ⟨hs.tx, hs.rx, hs.flash, hs.capture, hs.agenda, hs.nextExchange_ok r complete⟩

end State.Inv

/-! ### Results that keep the invariant -/

/-- If this is a next state, it meets the invariant. -/
def KeepsInv (r : Result) : Prop := ∀ t, r = .next t → t.Inv

theorem keepsInv_next {s : State} (hs : s.Inv) : KeepsInv (.next s) := fun _ h => by cases h; exact hs

theorem keepsInv_andThen {r : Result} {f : State → Result} (hr : KeepsInv r) (hf : ∀ s, s.Inv → KeepsInv (f s)) :
    KeepsInv (andThen r f) := by
  intro t h
  obtain ⟨u, hu, ht⟩ := andThen_eq_next h
  exact hf u (hr u hu) t ht

theorem keepsInv_exec {s : State} (hs : s.Inv) (i : Instr) : KeepsInv (exec i s) := fun _ h => exec_inv hs h

theorem keepsInv_goOn {s : State} (hs : s.Inv) {t : Task} (ht : t.ok = true) : KeepsInv (goOn t s) := keepsInv_next (hs.plan ht)

theorem keepsInv_goOnWithFrame {s : State} (hs : s.Inv) {t : Task} (ht : t.ok = true) : KeepsInv (goOnWithFrame t s) :=
  keepsInv_goOn (hs.setSent false) ht

theorem keepsInv_finish {s : State} (hs : s.Inv) (r : HostResult) : KeepsInv (finish r s) :=
  keepsInv_next (hs.setHost rfl rfl rfl)

theorem keepsInv_endExchange {s : State} (hs : s.Inv) (own : Request) (r : HostResult) : KeepsInv (endExchange own r s) :=
  keepsInv_finish (hs.resolve own) r

theorem keepsInv_transportWrite {s : State} (hs : s.Inv) : KeepsInv (transportWrite s) := by
  intro t h
  obtain ⟨-, -, u, e, rfl⟩ := transportWrite_effect h
  exact (e.inv hs.popWrite).noteWrite _ _

theorem keepsInv_transportRead {s : State} (hs : s.Inv) (ms : Nat) : KeepsInv (transportRead ms s) :=
  fun _ h => (transportRead_effect h).2.inv (hs.popRead ms)

theorem keepsInv_afterFailure {s : State} (hs : s.Inv) {own : Request} {carryOn resend : State → Result}
    (hc : ∀ u, u.Inv → KeepsInv (carryOn u)) (hr : ∀ u, u.Inv → KeepsInv (resend u)) :
    KeepsInv (afterFailure own carryOn resend s) := by
  unfold afterFailure
  split
  · exact hc _ hs.popChoice
  · exact hr _ hs.popChoice
  · exact keepsInv_endExchange hs.popChoice _ _

theorem keepsInv_hostWrite {s : State} (hs : s.Inv) {own : Request} {carryOn resend : State → Result}
    (hc : ∀ u, u.Inv → KeepsInv (carryOn u)) (hr : ∀ u, u.Inv → KeepsInv (resend u)) :
    KeepsInv (hostWrite own carryOn resend s) := by
  refine keepsInv_andThen (keepsInv_transportWrite hs) fun u hu => ?_
  split
  · exact hc u hu
  · exact keepsInv_afterFailure hu hc hr

theorem keepsInv_hostRead {s : State} (hs : s.Inv) {ms : Nat} {judge failed : State → Result}
    (hj : ∀ u, u.Inv → KeepsInv (judge u)) (hf : ∀ u, u.Inv → KeepsInv (failed u)) : KeepsInv (hostRead ms judge failed s) := by
  refine keepsInv_andThen (keepsInv_transportRead hs ms) fun u hu => ?_
  split
  · exact hj u hu
  · exact hf u hu

/-! ### Single moves -/

theorem keepsInv_issue {s : State} (hs : s.Inv) (ct : List Byte) : KeepsInv (issue ct s) := by
  obtain ⟨u, x, b, h, e, hx⟩ := issue_effect ct s
  rw [h]
  exact keepsInv_next (((e.inv hs).setExchange_of_cases hx).setSent b)

theorem keepsInv_openSession {s : State} (hs : s.Inv) (handle : Option Kind) : KeepsInv (openSession handle s) := by
  cases handle with
  | none => exact keepsInv_next (hs.setHost rfl rfl rfl)
  | some k =>
    simp only [openSession]
    refine keepsInv_andThen (keepsInv_exec hs .seqRst) fun u hu => keepsInv_next ?_
    exact hu.updateHost hu.capture hu.agenda rfl

/-! ### The bounded policies -/

theorem Progress.bounded_iff (p : Progress) : p.bounded = true ↔ p.sends < 20 ∧ p.reads < 8 := by
  simp only [Progress.bounded, Bool.and_eq_true, decide_eq_true_eq]
  rfl

theorem Progress.bounded_at {p : Progress} (hp : p.bounded = true) (point : Point) : (p.at point).bounded = true := hp

section Bounded

variable {own : Request} {task : Progress → Task} {p : Progress} {s : State}

theorem keepsInv_resendOrFail (ht : ∀ q, q.bounded = true → (task q).ok = true) (hs : s.Inv) :
    KeepsInv (resendOrFail own task p s) := by
  unfold resendOrFail
  split
  · rename_i h
    exact keepsInv_goOn hs (ht _ ((Progress.bounded_iff _).2 ⟨h, by simp [Progress.resend]⟩))
  · exact keepsInv_endExchange hs _ _

theorem keepsInv_rereadOrResend (ht : ∀ q, q.bounded = true → (task q).ok = true) (hp : p.bounded = true) (hs : s.Inv) :
    KeepsInv (rereadOrResend own task p s) := by
  unfold rereadOrResend
  split
  · rename_i h
    exact keepsInv_goOn hs (ht _ ((Progress.bounded_iff _).2 ⟨((Progress.bounded_iff p).1 hp).1, h⟩))
  · exact keepsInv_resendOrFail ht hs

theorem keepsInv_boundedFailure (ht : ∀ q, q.bounded = true → (task q).ok = true) (hp : p.bounded = true) (hs : s.Inv) :
    KeepsInv (boundedFailure own task p s) :=
  keepsInv_afterFailure hs (fun _ hu => keepsInv_rereadOrResend ht hp hu) (fun _ hu => keepsInv_resendOrFail ht hu)

end Bounded

theorem keepsInv_stepQuery {q : Query} {cmd : Byte} {p : Progress} {s : State} (hp : p.bounded = true) (hs : s.Inv) :
    KeepsInv (stepQuery q cmd p s) := by
  have ht : ∀ p', p'.bounded = true → (Task.query q cmd p').ok = true := fun _ h => h
  unfold stepQuery
  split
  case h_1 => exact keepsInv_andThen (keepsInv_exec hs _) fun _ hu => keepsInv_goOnWithFrame hu (Progress.bounded_at hp _)
  case h_2 => exact keepsInv_hostWrite hs (fun _ hu => keepsInv_goOn hu (Progress.bounded_at hp _)) fun _ hu => keepsInv_resendOrFail ht hu
  case h_3 => exact keepsInv_hostRead hs (fun _ hu => keepsInv_goOn hu (Progress.bounded_at hp _)) fun _ hu => keepsInv_boundedFailure ht hp hu
  case h_4 =>
    refine keepsInv_andThen (keepsInv_exec hs _) fun u hu => ?_
    split
    · exact keepsInv_endExchange hu _ _
    · exact keepsInv_rereadOrResend ht hp hu

theorem keepsInv_stepWriteSpi {cmd : Byte} {offset : Offset} {data : List Byte} {rest : List FlashWrite} {p : Progress} {s : State}
    (hp : p.bounded = true) (hs : s.Inv) : KeepsInv (stepWriteSpi cmd offset data rest p s) := by
  have ht : ∀ p', p'.bounded = true → (Task.writeSpi cmd offset data rest p').ok = true := fun _ h => h
  unfold stepWriteSpi
  split
  case h_1 =>
    refine keepsInv_andThen (keepsInv_exec hs _) fun u hu => ?_
    split
    · exact keepsInv_goOnWithFrame hu (Progress.bounded_at hp _)
    · exact keepsInv_finish hu _
  case h_2 => exact keepsInv_hostWrite hs (fun _ hu => keepsInv_goOn hu (Progress.bounded_at hp _)) fun _ hu => keepsInv_resendOrFail ht hu
  case h_3 => exact keepsInv_hostRead hs (fun _ hu => keepsInv_goOn hu (Progress.bounded_at hp _)) fun _ hu => keepsInv_boundedFailure ht hp hu
  case h_4 =>
    split
    · exact keepsInv_resendOrFail ht hs
    refine keepsInv_andThen (keepsInv_exec hs _) fun u hu => ?_
    split
    · exact keepsInv_goOn (hu.resolve _).oweSettle rfl
    · exact keepsInv_rereadOrResend ht hp hu

theorem keepsInv_continuePlan {s : State} (hs : s.Inv) (cmd : Byte) (plan : List FlashWrite) : KeepsInv (continuePlan cmd plan s) := by
  unfold continuePlan
  split
  · exact keepsInv_finish hs _
  · exact keepsInv_goOn hs rfl
  · exact keepsInv_goOn hs rfl

theorem keepsInv_stepPackParams {s : State} (hs : s.Inv) (cmd : Byte) (offset : Offset) (params : StickParams)
    (rest : List FlashWrite) : KeepsInv (stepPackParams cmd offset params rest s) := by
  refine keepsInv_andThen (keepsInv_exec hs _) fun u hu => ?_
  split
  · exact keepsInv_goOn hu rfl
  · exact keepsInv_finish hu _

/-! ### The SPI read and the capture -/

theorem keepsInv_readFailed {own : Request} {task : Progress → Task} {bound : Option Nat} {p : Progress} {s : State}
    (ht : ∀ q, (task q).ok = true) (hs : s.Inv) : KeepsInv (readFailed own task bound p s) := by
  unfold readFailed
  split
  · exact keepsInv_endExchange hs _ _
  · unfold readAgain
    split <;> exact keepsInv_goOn hs.popChoice (ht _)

theorem keepsInv_stepReadSpi {cmd : Byte} {offset : Offset} {len : Word} {bound : Option Nat} {p : Progress} {s : State}
    (hs : s.Inv) : KeepsInv (stepReadSpi cmd offset len bound p s) := by
  have ht : ∀ q, (Task.readSpi cmd offset len bound q).ok = true := fun _ => rfl
  unfold stepReadSpi
  split
  case h_1 => exact keepsInv_andThen (keepsInv_exec hs _) fun _ hu => keepsInv_goOnWithFrame hu (ht _)
  case h_2 => exact keepsInv_hostWrite hs (fun _ hu => keepsInv_goOn hu (ht _)) fun _ hu => keepsInv_goOn hu (ht _)
  case h_3 =>
    split
    · exact keepsInv_endExchange hs _ _
    · exact keepsInv_hostRead hs (fun _ hu => keepsInv_goOn hu (ht _)) fun _ hu => keepsInv_readFailed ht hu
  case h_4 =>
    refine keepsInv_andThen (keepsInv_exec hs _) fun u hu => ?_
    split
    · exact keepsInv_endExchange hu _ _
    split
    · exact keepsInv_endExchange hu _ _
    · exact keepsInv_readFailed ht hu

theorem keepsInv_observe {cmd : Byte} {params : CaptureParams} {v : Sample} {s : State} (hs : s.Inv)
    (hv : isU12 v.lx = true ∧ isU12 v.ly = true ∧ isU12 v.rx = true ∧ isU12 v.ry = true) : KeepsInv (observe cmd params v s) := by
  have hagain : ∀ {u : State}, u.Inv → KeepsInv (goOn (.capture cmd params .read) u) := fun hu => keepsInv_goOn hu rfl
  have htrack : (s.setCapture (s.host.capture.track s.host.kind v)).Inv := hs.setCapture (Capture.ok_track hs.capture hv _)
  simp only [observe]
  split
  · split
    · exact hagain (hs.updateHost (Capture.ok_endCenter hs.capture _ _ _) hs.agenda hs.exchange)
    · exact hagain htrack
  · split
    · refine keepsInv_finish ?_ _
      exact hs.updateHost (Capture.ok_endRange hs.capture _ _ _) hs.agenda hs.exchange
    · exact hagain htrack
  · exact keepsInv_finish hs _

theorem keepsInv_stepCapture {cmd : Byte} {params : CaptureParams} {point : CapturePoint} {s : State} (hs : s.Inv) :
    KeepsInv (stepCapture cmd params point s) := by
  have hunanswered : ∀ u, u.Inv → KeepsInv (modeUnanswered (Task.capture cmd params) u) := fun _ hu =>
    keepsInv_afterFailure hu (fun _ hu => keepsInv_goOn hu rfl) fun _ hu => keepsInv_goOn hu rfl
  unfold stepCapture
  cases point with
  | mode => exact keepsInv_andThen (keepsInv_exec hs _) fun _ hu => keepsInv_goOnWithFrame hu rfl
  | write => exact keepsInv_hostWrite hs (fun _ hu => keepsInv_goOn hu rfl) fun _ hu => keepsInv_goOn hu rfl
  | answer => exact keepsInv_hostRead hs (fun _ hu => keepsInv_goOn hu rfl) hunanswered
  | accept =>
    refine keepsInv_andThen (keepsInv_exec hs _) fun u hu => ?_
    split
    · exact keepsInv_goOn ((hu.setCapture Capture.ok_blank).resolve _) rfl
    · exact hunanswered u hu
  | read => exact keepsInv_hostRead hs (fun _ hu => keepsInv_goOn hu rfl) fun _ hu => keepsInv_goOn hu rfl
  | judge =>
    refine keepsInv_andThen (keepsInv_exec hs _) fun u hu => ?_
    split
    · rename_i v hv
      exact keepsInv_observe hu (readSample_isU12 hv)
    · exact keepsInv_goOn hu rfl

/-! ### The statements -/

/-- A move of a task whose counters are in range keeps the invariant. -/
theorem keepsInv_runTask {t : Task} {s : State} (ht : t.ok = true) (hs : s.Inv) : KeepsInv (runTask t s) := by
  cases t with
  | issue ct => exact keepsInv_issue hs ct
  | write => exact keepsInv_transportWrite hs
  | read ms => exact keepsInv_transportRead hs ms
  | wait => exact keepsInv_next hs.settle
  | reset => exact keepsInv_next hs.resetBlock
  | openSession handle => exact keepsInv_openSession hs handle
  | query q cmd p => exact keepsInv_stepQuery ht hs
  | writeSpi cmd offset data rest p => exact keepsInv_stepWriteSpi ht hs
  | settle cmd rest => exact keepsInv_continuePlan hs.settle cmd rest
  | packParams cmd offset params rest => exact keepsInv_stepPackParams hs cmd offset params rest
  | readSpi cmd offset len bound p => exact keepsInv_stepReadSpi hs
  | calibrate cmd rightCal rightPar leftCal leftPar => exact keepsInv_continuePlan hs cmd _
  | capture cmd params point => exact keepsInv_stepCapture hs

/-- Settles O49: the step runs the task at the head of the agenda, whose counters are in range. -/
theorem stepKeepsTheInvariant : Obligations.StepKeepsTheInvariant := by
  intro s t hs h
  unfold step at h
  split at h
  · cases h; exact hs
  · rename_i task rest hagenda
    have htask : task.ok = true := List.all_eq_true.1 hs.agenda task (by simp [hagenda])
    exact keepsInv_runTask htask hs.popTask t h

/-- Settles O50: the buffers are empty and nothing is planned. -/
theorem resetMeetsTheInvariant : Obligations.ResetMeetsTheInvariant :=
  ⟨by decide, by decide, by decide, by decide, by decide, by decide⟩

end Sys2Proof.Machine
end

section
/-! PROOFS. The CRC8 unit: the table as the polynomial's, whole messages, and the operations that clear or read a register. -/

namespace Sys2Proof.Machine

/-! ### The table -/

/-- R101: a round is linear over GF(2): the bit that goes out decides whether the polynomial comes in. -/
theorem crcRound_xor (x y : Byte) : Claims.crcRound (x ^^^ y) = Claims.crcRound x ^^^ Claims.crcRound y := by
  have hcancel : ∀ a b p : Byte, (a ^^^ p) ^^^ (b ^^^ p) = a ^^^ b := fun a b p => by
    rw [BitVec.xor_comm b p, BitVec.xor_assoc, ← BitVec.xor_assoc p p b, BitVec.xor_self, BitVec.zero_xor]
  have hswap : ∀ a b p : Byte, (a ^^^ b) ^^^ p = (a ^^^ p) ^^^ b := fun a b p => by
    rw [BitVec.xor_assoc, BitVec.xor_comm b p, BitVec.xor_assoc]
  simp only [Claims.crcRound, BitVec.getLsbD_xor, BitVec.shiftLeft_xor_distrib]
  cases x.getLsbD 7 <;> cases y.getLsbD 7
  · rfl
  · exact BitVec.xor_assoc _ _ _
  · exact hswap _ _ _
  · exact (hcancel _ _ _).symm

theorem crcRound_eq_zero : ∀ x : Byte, Claims.crcRound x = 0 → x = 0 := by decide

/-- A linear round that only 0 is sent to 0 by sends different bytes to different bytes. -/
theorem crcRound_injective {x y : Byte} (h : Claims.crcRound x = Claims.crcRound y) : x = y := by
  have hzero : Claims.crcRound (x ^^^ y) = 0 := by
    rw [crcRound_xor, h]
    exact BitVec.xor_self
  exact BitVec.xor_eq_zero_iff.1 (crcRound_eq_zero _ hzero)

theorem crcEntry_xor (x y : Byte) : Claims.crcEntry (x ^^^ y) = Claims.crcEntry x ^^^ Claims.crcEntry y := by
  simp only [Claims.crcEntry, crcRound_xor]

theorem crcEntry_injective {x y : Byte} (h : Claims.crcEntry x = Claims.crcEntry y) : x = y := by
  unfold Claims.crcEntry at h
  iterate 8 replace h := crcRound_injective h
  exact h

/-- R101: the entries the spec lists are the derived ones. -/
theorem crcRom_eq_crcEntry : ∀ i, crcRom i = Claims.crcEntry i := by decide +kernel

/-- Settles O1: linearity and difference are those of the eight rounds. -/
theorem crcRomIsThePolynomialTable : Obligations.CrcRomIsThePolynomialTable := by
  refine ⟨crcRom_eq_crcEntry, fun i j h => ?_, fun i j => ?_, by decide, by decide, by decide, by decide⟩
  · rw [crcRom_eq_crcEntry, crcRom_eq_crcEntry] at h
    exact crcEntry_injective h
  · simp only [crcRom_eq_crcEntry, crcEntry_xor]

/-! ### Messages -/

/-- R103: one `CRC8.UPD` a byte runs the value on; with no byte nothing happens. -/
theorem execAll_crc8Upd (bytes : List Byte) (s : State) :
    Claims.execAll (bytes.map .crc8Upd) s =
      .next (if bytes = [] then s else { s with crc := crcRun s.crc bytes, res := [0x00, crcRun s.crc bytes] }) := by
  induction bytes generalizing s with
  | nil => rfl
  | cons b bs ih =>
    rw [List.map_cons, Claims.execAll, exec_crc8Upd, andThen_next, ih, if_neg (List.cons_ne_nil b bs)]
    cases bs <;> rfl

theorem exec_crc8Init (s : State) : exec .crc8Init s = .next { s with crc := 0x00, res := [0x00] } := rfl

/-- Settles O4: the updates after the start run the value of R100. -/
theorem crcBufEqualsInitThenUpds : Obligations.CrcBufEqualsInitThenUpds := by
  intro bytes s
  have hrun : Claims.execAll (.crc8Init :: bytes.map .crc8Upd) s = Claims.execAll (bytes.map .crc8Upd) { s with crc := 0x00, res := [0x00] } :=
    rfl
  refine ⟨_, _, hrun.trans (execAll_crc8Upd bytes _), exec_crc8Buf bytes s, ?_, ?_⟩
  · cases bytes <;> rfl
  · intro hne
    rw [if_neg hne]
    rfl

/-- R103, R106: the byte that equals the running value clears it. -/
theorem crc8_append_self (bytes : List Byte) : crc8 (bytes ++ [crc8 bytes]) = 0x00 := by
  rw [crc8_eq_foldl, List.foldl_append, ← crc8_eq_foldl]
  exact crcRom_xor_self (crc8 bytes)

/-- Settles O5. -/
theorem messageWithItsChecksumGivesZero : Obligations.MessageWithItsChecksumGivesZero := fun bytes s =>
  ⟨_, _, exec_crc8Buf bytes s, exec_crc8Buf _ s, crc8_append_self bytes⟩

/-! ### Registers -/

theorem exec_crc8Get (s : State) : exec .crc8Get s = .next (Claims.answers s [0x00, s.crc]) := rfl

theorem exec_seqRst (s : State) : exec .seqRst s = .next { s with seq := 0, res := [0x00] } := rfl

/-- Settles O6: each operation as an equation on the whole state. -/
theorem registerOperationsClearAndRead : Obligations.RegisterOperationsClearAndRead :=
  ⟨⟨rfl, exec_crc8Init⟩, ⟨rfl, exec_crc8Get⟩, ⟨rfl, exec_seqRst⟩⟩

end Sys2Proof.Machine
end

section
/-! PROOFS. The frame encoder: the two SPI frames, the rows of the table that the built frames are, and the sequence counter over any
number of encode operations. -/

namespace Sys2Proof.Machine

/-! ### The SPI frames -/

theorem exec_encSpir (cmd : Byte) (offset : Offset) (size : Word) (s : State) :
    exec (.encSpir cmd offset size) s = sendFrame cmd 0x10 (spiArgs offset size.toNat) s := rfl

theorem exec_encSpiw_of_le {data : List Byte} (h : data.length ≤ 29) (cmd : Byte) (offset : Offset) (s : State) :
    exec (.encSpiw cmd offset data) s = sendFrame cmd 0x11 (spiwArgs offset data) s :=
  if_neg (Nat.not_lt.2 h)

/-- R125, R227: more than 29 data bytes are refused. -/
theorem exec_encSpiw_of_gt {data : List Byte} (h : 29 < data.length) (cmd : Byte) (offset : Offset) (s : State) :
    exec (.encSpiw cmd offset data) s = .next (Claims.answers s [0x11]) :=
  if_pos h

/-- The bytes of an SPI frame's offset and size. -/
theorem spiArgs_append (o0 o1 o2 o3 z0 z1 : Byte) :
    spiArgs (o3 ++ o2 ++ o1 ++ o0) (z1 ++ z0 : Word).toNat = [o0, o1, o2, o3, z0, z1] := by
  rw [spiArgs, leBytes_append_four, leBytes_append_two]
  rfl

/-- Settles O11. -/
theorem encSpirBuildsItsFrame : Obligations.EncSpirBuildsItsFrame := by
  intro cmd o0 o1 o2 o3 z0 z1 s
  refine ⟨?_, ?_⟩
  · rw [← le32_quad, ← le16_pair]
    rfl
  · rw [exec_encSpir, spiArgs_append]
    exact sendFrame_sent (args := [o0, o1, o2, o3, z0, z1]) (by simp) s

/-- R60, R125: the data stand after the header of 16 bytes, and zeros after them. -/
theorem sendFrame_spiw_sent {data : List Byte} (h : data.length ≤ 29) (cmd : Byte) (offset : Offset) (s : State) :
    ∃ t, sendFrame cmd 0x11 (spiwArgs offset data) s = .next t ∧
      Claims.Sent s t (Claims.header s cmd 0x11 ++ (spiArgs offset data.length ++ List.replicate 7 0 ++ data) ++
        List.replicate (33 - data.length) 0) := by
  have hlen := spiwArgs_length offset data
  obtain ⟨t, ht, hsent⟩ := sendFrame_sent (cmd := cmd) (sub := 0x11) (args := spiwArgs offset data) (by omega) s
  have hpad : 46 - (spiwArgs offset data).length = 33 - data.length := by omega
  rw [hpad] at hsent
  exact ⟨t, ht, hsent⟩

/-- Settles O12, by whether the data fit. -/
theorem encSpiwBuildsItsFrameOrRefuses : Obligations.EncSpiwBuildsItsFrameOrRefuses := by
  intro cmd o0 o1 o2 o3 n0 n1 data s hlen
  have hcount : data.length = leNat [n0, n1] := by simpa [leNat] using hlen
  refine ⟨?_, fun h => ?_, fun h => exec_encSpiw_of_gt h _ _ _⟩
  · rw [← le32_quad]
    exact if_pos hcount
  · have hsize : leBytes 2 data.length = [n0, n1] := by
      rw [hcount]
      exact leBytes_leNat [n0, n1]
    rw [exec_encSpiw_of_le h]
    obtain ⟨t, ht, hsent⟩ := sendFrame_spiw_sent h cmd (o3 ++ o2 ++ o1 ++ o0) s
    rw [spiArgs, leBytes_append_four, hsize] at hsent
    exact ⟨t, ht, by simpa only [List.append_assoc, List.cons_append, List.nil_append] using hsent⟩

/-! ### The rows of the table -/

/-- A frame that decodes is what the TX port then presents. -/
theorem sendFrame_decodes {cmd sub : Byte} {args : List Byte} {s : State} {i : Instr} (hl : args.length ≤ 46)
    (hd : decode .tx (frame cmd s.seq sub args) = some i) :
    ∃ t, sendFrame cmd sub args s = .next t ∧ decode .tx t.txBytes = some i := by
  refine ⟨_, sendFrame_eq cmd sub args s, ?_⟩
  have hbytes := txBytes_setTx s (frame cmd s.seq sub args) (frame_length cmd s.seq sub args hl)
  rw [← hd]
  exact congrArg (decode .tx) hbytes

/-- Settles O13, by the decoder's lemma of each frame. -/
theorem builtFramesAreRowsOfTheTable : Obligations.BuiltFramesAreRowsOfTheTable := by
  refine ⟨fun cmd s => ?_, fun cmd mode s => ?_, fun cmd offset size s => ?_, fun cmd offset data s h => ?_⟩
  · exact sendFrame_decodes (by simp) (decode_frame_info cmd s.seq)
  · exact sendFrame_decodes (by simp) (decode_frame_mode cmd s.seq mode)
  · exact sendFrame_decodes (by simp [spiArgs_length]) (decode_frame_spir cmd s.seq offset size)
  · rw [exec_encSpiw_of_le h]
    exact sendFrame_decodes (by rw [spiwArgs_length]; omega) (decode_frame_spiw cmd s.seq offset data h)

/-! ### The sequence counter -/

/-- R112: an encode operation builds a frame, or refuses its data. -/
theorem exec_encode_cases {i : Instr} (h : Claims.isEncode i = true) :
    (∃ cmd sub args, ∀ s, exec i s = sendFrame cmd sub args s) ∨
      ((∃ c o d, i = .encSpiw c o d ∧ 29 < d.length) ∧ ∀ s, exec i s = .next (Claims.answers s [0x11])) := by
  cases i with
  | encInfo cmd => exact .inl ⟨_, _, _, exec_encInfo cmd⟩
  | encMode cmd mode => exact .inl ⟨_, _, _, exec_encMode cmd mode⟩
  | encSpir cmd offset size => exact .inl ⟨_, _, _, exec_encSpir cmd offset size⟩
  | encSpiw cmd offset data =>
    rcases Nat.lt_or_ge 29 data.length with hlen | hlen
    · exact .inr ⟨⟨_, _, _, rfl, hlen⟩, exec_encSpiw_of_gt hlen cmd offset⟩
    · exact .inl ⟨_, _, _, exec_encSpiw_of_le hlen cmd offset⟩
  | _ => cases h

/-- R112: the frame built carries `seq` as it was in byte 1, and `seq` has advanced. -/
theorem sendFrame_stamps (cmd sub : Byte) (args : List Byte) (s : State) :
    ∃ t, sendFrame cmd sub args s = .next t ∧ t.status = 0x00 ∧ Memory.byte t.txbuf 1 = s.seq.setWidth 8 ∧
      t.seq = s.seq + 1 := by
  refine ⟨_, sendFrame_eq cmd sub args s, rfl, ?_, rfl⟩
  simp [frame_eq]

/-- Settles O7, by whether the operation builds a frame. -/
theorem encodeStampsThenAdvances : Obligations.EncodeStampsThenAdvances := by
  intro i s hi
  obtain ⟨cmd, sub, args, h⟩ | ⟨-, h⟩ := exec_encode_cases hi
  · obtain ⟨t, ht, hstatus, hbyte, hseq⟩ := sendFrame_stamps cmd sub args s
    exact ⟨t, (h s).trans ht, fun _ => ⟨hbyte, hseq⟩, fun hne => absurd hstatus hne⟩
  · exact ⟨_, h s, fun hok => absurd hok (show (0x11 : Byte) ≠ 0x00 by decide), fun _ => rfl⟩

/-- R113: encode operations that are not refused count `seq` on, from any start. -/
theorem execAll_encode (is : List Instr) (s : State)
    (h : ∀ i ∈ is, Claims.isEncode i = true ∧ ∀ c o d, i = .encSpiw c o d → d.length ≤ 29) :
    ∃ t, Claims.execAll is s = .next t ∧ t.seq = s.seq + BitVec.ofNat 4 is.length := by
  induction is generalizing s with
  | nil => exact ⟨s, rfl, by simp⟩
  | cons i is ih =>
    obtain ⟨hi, hdata⟩ := h i List.mem_cons_self
    obtain ⟨cmd, sub, args, hexec⟩ | ⟨⟨c, o, d, rfl, hlen⟩, -⟩ := exec_encode_cases hi
    · obtain ⟨u, hu, -, -, hseq⟩ := sendFrame_stamps cmd sub args s
      obtain ⟨t, ht, htseq⟩ := ih u fun j hj => h j (List.mem_cons_of_mem i hj)
      refine ⟨t, by rw [Claims.execAll, hexec, hu, andThen_next, ht], ?_⟩
      rw [htseq, hseq, List.length_cons, BitVec.add_assoc, Nat.add_comm, BitVec.ofNat_add]
      rfl
    · exact absurd (hdata c o d rfl) (by omega)

/-- Settles O8. -/
theorem seqCountsFramesModulo16 : Obligations.SeqCountsFramesModulo16 := by
  intro is s hseq h
  obtain ⟨t, ht, htseq⟩ := execAll_encode is s h
  exact ⟨t, ht, by rw [htseq, hseq]; simp⟩

end Sys2Proof.Machine
end

section
/-! PROOFS. The frame decoder (43_frame_decoder.md): the answers of the decode operations in the words of the rules, the second echo
layout, that they depend on the response alone, and the loading of a response. -/

namespace Sys2Proof.Machine

/-! ### DEC.ACK and DEC.INFO -/

theorem word16_ackOf (s : State) : word16 (Claims.ackOf s) = [Claims.rx s 0xD, Claims.rx s 0xE] :=
  leBytes_append_two (Claims.rx s 0xE) (Claims.rx s 0xD)

/-- The RES string of `DEC.ACK` (R133). -/
def ackRes (s : State) : List Byte :=
  match Claims.ackRaises s with
  | some st => [st]
  | none => [0x00, Claims.rx s 0xD, Claims.rx s 0xE]

theorem exec_decAck (s : State) : exec .decAck s = .next (Claims.answers s (ackRes s)) := by
  simp only [exec, execDecAck, ackRes]
  obtain ⟨st, hread, hraises⟩ | ⟨hread, hraises⟩ := readAck_cases s
  · rw [hread, hraises]
    rfl
  · rw [hread, hraises]
    simp only [Except.map, answer_ok, word16_ackOf]
    rfl

/-- Settles O15, by whether the response is long enough to hold a code. -/
theorem decAckReadsTheCode : Obligations.DecAckReadsTheCode := ⟨rfl, exec_decAck⟩

/-- The bytes of `RXBUF` from `a` on. -/
theorem bytes_rxbuf (s : State) (a n : Nat) : Memory.bytes s.rxbuf a n = (List.range n).map fun i => Claims.rx s (a + i) :=
  Memory.bytes_eq_map s.rxbuf a n

theorem exec_decInfo (s : State) : exec .decInfo s = .next (Claims.answers s (Claims.infoRes s)) := by
  simp only [exec, execDecInfo, readInfo, Claims.infoRes]
  obtain ⟨st, hread, hraises⟩ | ⟨hread, hraises⟩ := readAck_cases s
  · rw [matchAck_of_error hread, hraises]
    rfl
  · rw [matchAck_of_ok hread, hraises]
    by_cases hcode : Claims.ackOf s = Config.ackInfo
    · by_cases hshort : s.rxLen < 0x19
      · simp only [hcode, hshort, if_true]
        rfl
      · simp only [hcode, hshort, if_true, if_false, answer_ok, bytes_rxbuf]
        rfl
    · have hne : Claims.ackOf s ≠ 0x0282 := hcode
      simp only [if_neg hcode, if_pos hne]
      rfl

/-- Settles O17, test by test. -/
theorem decInfoReturnsThePayload : Obligations.DecInfoReturnsThePayload := ⟨rfl, exec_decInfo⟩

/-! ### The echo of an SPI read -/

/-- R137: what the response must hold where the echo layout puts it. -/
def echoGood (E : Config.EchoLayout) (offset : Offset) (len : Word) (s : State) : Bool :=
  !(E.ack.any fun a => Memory.read s.rxbuf Config.ackPos 2 != a.toNat) &&
    Memory.read s.rxbuf E.offPos E.offW == offset.toNat % 2 ^ (8 * E.offW) &&
    Memory.read s.rxbuf E.sizePos E.sizeW == len.toNat % 2 ^ (8 * E.sizeW)

/-- R137, R138: the judgement of an SPI read under any echo layout. -/
theorem decSpirWith_eq (E : Config.EchoLayout) (offset : Offset) (len : Word) (s : State) :
    decSpirWith E offset len s =
      .next (Claims.answers s (Claims.spirRes s len (echoNeed E) (echoGood E offset len s))) := by
  unfold decSpirWith spirMatch Claims.spirRes echoGood
  by_cases hzero : s.rxLen = 0
  · simp only [hzero, if_true]
    rfl
  by_cases hshort : s.rxLen < echoNeed E
  · simp only [hzero, hshort, if_true, if_false]
    rfl
  by_cases hack : (E.ack.any fun a => Memory.read s.rxbuf Config.ackPos 2 != a.toNat) = true
  · simp only [hzero, hshort, hack, if_true, if_false, Bool.not_true, Bool.false_and, Bool.not_false]
    rfl
  by_cases hoff : Memory.read s.rxbuf E.offPos E.offW = offset.toNat % 2 ^ (8 * E.offW)
  · by_cases hsize : Memory.read s.rxbuf E.sizePos E.sizeW = len.toNat % 2 ^ (8 * E.sizeW)
    · by_cases hlong : s.rxLen ≥ Config.rdataPos + len.toNat
      · have hlong' : 0x14 + len.toNat ≤ s.rxLen := hlong
        simp [hzero, hshort, hack, hoff, hsize, hlong', respond_eq, bytes_rxbuf, Status.code, Config.rdataPos]
        rfl
      · have hlong' : ¬ 0x14 + len.toNat ≤ s.rxLen := hlong
        simp [hzero, hshort, hack, hoff, hsize, hlong, hlong', respond_eq, Status.code]
        rfl
    · simp [hzero, hshort, hack, hoff, hsize, raise_eq, Status.code]
      rfl
  · simp [hzero, hshort, hack, hoff, raise_eq, Status.code]
    rfl

/-- A field of one byte. -/
theorem read_one_eq_iff {w : Nat} (m : Memory) (a : Nat) (v : BitVec w) :
    Memory.read m a 1 = v.toNat % 2 ^ 8 ↔ Memory.byte m a = v.extractLsb' 0 8 := by
  rw [← BitVec.toNat_inj, BitVec.extractLsb'_toNat]
  simp [Memory.read, Memory.bytes, leNat]

/-- A field of two bytes. -/
theorem read_two_eq_iff {w : Nat} (m : Memory) (a : Nat) (v : BitVec w) :
    Memory.read m a 2 = v.toNat % 2 ^ 16 ↔
      Memory.byte m a = v.extractLsb' 0 8 ∧ Memory.byte m (a + 1) = v.extractLsb' 8 8 := by
  have ha := (Memory.byte m a).isLt
  have hb := (Memory.byte m (a + 1)).isLt
  rw [← BitVec.toNat_inj, ← BitVec.toNat_inj, BitVec.extractLsb'_toNat, BitVec.extractLsb'_toNat,
    Nat.shiftRight_eq_div_pow, Nat.shiftRight_eq_div_pow]
  simp only [Memory.read, Memory.bytes, leNat]
  omega

/-- A field of four bytes. -/
theorem read_four_eq_iff (m : Memory) (a : Nat) (v : Offset) :
    Memory.read m a 4 = v.toNat % 2 ^ 32 ↔
      Memory.byte m (a + 3) ++ Memory.byte m (a + 2) ++ Memory.byte m (a + 1) ++ Memory.byte m a = v := by
  have hv := v.isLt
  rw [← BitVec.toNat_inj]
  simp only [Memory.read, Memory.bytes, leNat, toNat_append_bytes, Nat.add_assoc, Nat.reduceAdd]
  omega

theorem echoNeed_echoDoc : echoNeed Config.echoDoc = 0x11 := by decide

theorem echoNeed_echoAlt : echoNeed Config.echoAlt = 0x14 := by decide

/-- R136: `ECHO_DOC` holds the low 16 bits of the offset, and the size. -/
theorem echoGood_echoDoc (offset : Offset) (len : Word) (s : State) :
    echoGood Config.echoDoc offset len s = true ↔
      (Claims.rx s 0xD = offset.extractLsb' 0 8 ∧ Claims.rx s 0xE = offset.extractLsb' 8 8) ∧
        Claims.rx s 0xF = len.extractLsb' 0 8 ∧ Claims.rx s 0x10 = len.extractLsb' 8 8 := by
  simp only [echoGood, Config.echoDoc, Option.any_none, Bool.not_false, Bool.true_and, Bool.and_eq_true, beq_iff_eq,
    Nat.reduceMul, read_two_eq_iff]
  rfl

/-- R136: `ECHO_ALT` holds the code, the whole offset, and the low byte of the size. -/
theorem echoGood_echoAlt (offset : Offset) (len : Word) (s : State) :
    echoGood Config.echoAlt offset len s = true ↔
      Claims.ackOf s = 0x1090 ∧
        Claims.rx s 0x12 ++ Claims.rx s 0x11 ++ Claims.rx s 0x10 ++ Claims.rx s 0xF = offset ∧
          Claims.rx s 0x13 = len.extractLsb' 0 8 := by
  have hack : Memory.read s.rxbuf Config.ackPos 2 = (0x1090 : Word).toNat ↔ Claims.ackOf s = 0x1090 := by
    have hD := (Claims.rx s 0xD).isLt
    rw [← BitVec.toNat_inj, Claims.ackOf, toNat_append_bytes]
    rfl
  simp only [echoGood, Config.echoAlt, Option.any_some, bne, Bool.not_not, Bool.and_eq_true, beq_iff_eq, Nat.reduceMul,
    read_four_eq_iff, read_one_eq_iff, and_assoc, hack]
  rfl

theorem exec_decSpir (offset : Offset) (len : Word) (s : State) :
    exec (.decSpir offset len) s =
      .next (Claims.answers s (Claims.spirRes s len 0x11 (echoGood Config.echoDoc offset len s))) := by
  rw [← echoNeed_echoDoc]
  exact decSpirWith_eq Config.echoDoc offset len s

/-- The bytes of a value written high byte first. -/
theorem extract_append_two (b a : Byte) : (b ++ a : Word).extractLsb' 0 8 = a ∧ (b ++ a : Word).extractLsb' 8 8 = b := by
  have h := leBytes_append_two b a
  rw [leBytes_word] at h
  simpa using h

theorem extract_append_four (d c b a : Byte) :
    (d ++ c ++ b ++ a : Offset).extractLsb' 0 8 = a ∧ (d ++ c ++ b ++ a : Offset).extractLsb' 8 8 = b := by
  have h := leBytes_append_four d c b a
  rw [leBytes_offset] at h
  simp only [List.cons.injEq] at h
  exact ⟨h.1, h.2.1⟩

/-- Settles O18: the echo test of `ECHO_DOC`, byte by byte. -/
theorem decSpirReturnsThePayload : Obligations.DecSpirReturnsThePayload := by
  intro o0 o1 o2 o3 l0 l1 s
  refine ⟨?_, ?_⟩
  · rw [← le32_quad, ← le16_pair]
    rfl
  · rw [exec_decSpir]
    congr 3
    rw [Bool.eq_iff_iff, echoGood_echoDoc, (extract_append_four o3 o2 o1 o0).1, (extract_append_four o3 o2 o1 o0).2,
      (extract_append_two l1 l0).1, (extract_append_two l1 l0).2]
    simp only [Bool.and_eq_true, beq_iff_eq, and_assoc]

/-- Settles O19: the same judgement under the other layout. -/
theorem echoAltTestsCodeOffsetAndSize : Obligations.EchoAltTestsCodeOffsetAndSize := by
  intro offset len s
  rw [decSpirWith_eq, echoNeed_echoAlt]
  congr 3
  rw [Bool.eq_iff_iff, echoGood_echoAlt]
  simp only [Bool.and_eq_true, beq_iff_eq, and_assoc]

/-! ### What the answers depend on -/

/-- The RES string of `DEC.MATCH` (R134). -/
def matchRes (exp : Word) (s : State) : List Byte :=
  match Claims.ackRaises s with
  | some st => [st]
  | none => if Claims.ackOf s = exp then [0x00] else [0x02]

theorem exec_decMatch_eq (exp : Word) (s : State) : exec (.decMatch exp) s = .next (Claims.answers s (matchRes exp s)) := by
  unfold matchRes
  obtain ⟨st, hread, hraises⟩ | ⟨hread, hraises⟩ := readAck_cases s
  · rw [hraises]
    exact exec_decMatch_of_error hread exp
  · rw [hraises]
    exact exec_decMatch_of_ok hread exp

section Congruence

variable {s s' : State} (hlen : s.rxLen = s'.rxLen) (hrx : ∀ a, a < s.rxLen → Claims.rx s a = Claims.rx s' a)

include hlen in
theorem ackRaises_congr : Claims.ackRaises s = Claims.ackRaises s' := by
  simp only [Claims.ackRaises, hlen]

/-- A response in which a code can be compared has at least 0xF bytes. -/
theorem le_of_ackRaises (h : Claims.ackRaises s = none) : 0xF ≤ s.rxLen := by
  unfold Claims.ackRaises at h
  split at h
  · cases h
  split at h
  · cases h
  · omega

include hrx in
theorem ackOf_congr (h : Claims.ackRaises s = none) : Claims.ackOf s = Claims.ackOf s' := by
  have hle := le_of_ackRaises h
  rw [Claims.ackOf, Claims.ackOf, hrx 0xD (by omega), hrx 0xE (by omega)]

include hlen hrx in
theorem infoRes_congr : Claims.infoRes s = Claims.infoRes s' := by
  unfold Claims.infoRes
  rw [← ackRaises_congr hlen, ← hlen]
  cases hraises : Claims.ackRaises s with
  | some st => rfl
  | none =>
    simp only [← ackOf_congr hrx hraises]
    by_cases hshort : s.rxLen < 0x19
    · simp only [hshort, if_true]
    · have hbytes : (List.range 10).map (fun i => Claims.rx s (0xF + i)) = (List.range 10).map fun i => Claims.rx s' (0xF + i) :=
        List.map_congr_left fun i hi => hrx _ (by have := List.mem_range.1 hi; omega)
      simp only [hbytes]

include hlen hrx in
theorem spirRes_congr (offset : Offset) (len : Word) :
    Claims.spirRes s len 0x11 (echoGood Config.echoDoc offset len s) =
      Claims.spirRes s' len 0x11 (echoGood Config.echoDoc offset len s') := by
  unfold Claims.spirRes
  rw [← hlen]
  by_cases hshort : s.rxLen < 0x11
  · simp only [hshort, if_true]
  · have hgood : echoGood Config.echoDoc offset len s = echoGood Config.echoDoc offset len s' := by
      rw [Bool.eq_iff_iff, echoGood_echoDoc, echoGood_echoDoc, hrx 0xD (by omega), hrx 0xE (by omega), hrx 0xF (by omega),
        hrx 0x10 (by omega)]
    rw [hgood]
    by_cases hlong : 0x14 + len.toNat ≤ s.rxLen
    · have hbytes : (List.range len.toNat).map (fun i => Claims.rx s (0x14 + i)) =
          (List.range len.toNat).map fun i => Claims.rx s' (0x14 + i) :=
        List.map_congr_left fun i hi => hrx _ (by have := List.mem_range.1 hi; omega)
      rw [hbytes]
    · simp only [if_neg hlong]

include hlen hrx in
theorem ackRes_congr : ackRes s = ackRes s' := by
  unfold ackRes
  rw [← ackRaises_congr hlen]
  cases hraises : Claims.ackRaises s with
  | some st => rfl
  | none =>
    have hle := le_of_ackRaises hraises
    simp only [hrx 0xD (by omega), hrx 0xE (by omega)]

include hlen hrx in
theorem matchRes_congr (exp : Word) : matchRes exp s = matchRes exp s' := by
  unfold matchRes
  rw [← ackRaises_congr hlen]
  cases hraises : Claims.ackRaises s with
  | some st => rfl
  | none => simp only [← ackOf_congr hrx hraises]

include hlen hrx in
theorem sampleRes_congr : sampleRes s = sampleRes s' := by
  unfold sampleRes
  rw [← hlen]
  by_cases hshort : s.rxLen ≤ 12
  · simp only [hshort, if_true]
  · simp only [hrx 6 (by omega), hrx 7 (by omega), hrx 8 (by omega), hrx 9 (by omega), hrx 10 (by omega), hrx 11 (by omega)]

end Congruence

/-- Settles O20: of each operation, only the bytes below `rx_len` are looked at (R56, R130). -/
theorem decodersDependOnTheResponseAlone : Obligations.DecodersDependOnTheResponseAlone := by
  intro i s s' hi hlen hrx
  cases i with
  | decAck => exact ⟨_, _, exec_decAck s, exec_decAck s', ackRes_congr hlen hrx⟩
  | decMatch exp => exact ⟨_, _, exec_decMatch_eq exp s, exec_decMatch_eq exp s', matchRes_congr hlen hrx exp⟩
  | decInfo => exact ⟨_, _, exec_decInfo s, exec_decInfo s', infoRes_congr hlen hrx⟩
  | decSpir offset len =>
    exact ⟨_, _, exec_decSpir offset len s, exec_decSpir offset len s', spirRes_congr hlen hrx offset len⟩
  | smpUnpk => exact ⟨_, _, exec_smpUnpk s, exec_smpUnpk s', sampleRes_congr hlen hrx⟩
  | _ => cases hi

/-! ### Loading a response -/

/-- R131: a response of at most 0x170 bytes is loaded. -/
theorem loadResponse_loaded {bytes : List Byte} (h : bytes.length ≤ 0x170) (s : State) :
    ∃ t, loadResponse bytes s = .next t ∧ Claims.Loaded s t bytes ∧ t.host = s.host :=
  ⟨_, loadResponse_of_le h s,
    { len := rfl, rx := Memory.byte_ofBytes bytes, res := rfl, frame := ⟨rfl, rfl, rfl, rfl, rfl⟩ }, rfl⟩

/-- Settles O14, by whether the response fits. -/
theorem rxLoadFillsRxbufOrRefuses : Obligations.RxLoadFillsRxbufOrRefuses := by
  intro n0 n1 bytes s hlen
  have hcount : bytes.length = leNat [n0, n1] := by simpa [leNat] using hlen
  exact ⟨if_pos hcount, fun h => loadResponse_loaded h s, fun h => loadResponse_of_gt h s⟩

/-- Settles O41: each response is its two parts with the code between them. -/
theorem responsesAreLoaded : Obligations.ResponsesAreLoaded := by
  intro head rest s hhead hrest
  have hlen : ∀ b0 b1 : Byte, (head ++ [b0, b1] ++ rest).length ≤ 0x170 := fun b0 b1 => by simp; omega
  refine ⟨loadResponse_loaded (hlen 0x82 0x02) s, ?_, loadResponse_loaded (hlen 0x90 0x10) s⟩
  obtain ⟨t, ht, hloaded, hhost⟩ := loadResponse_loaded (hlen 0x80 0x11) s
  have hexec : exec (.respSpiw head rest) s = andThen (loadResponse (head ++ [0x80, 0x11] ++ rest) s) fun t => .next t.oweSettle := rfl
  refine ⟨t.oweSettle, by rw [hexec, ht, andThen_next], ?_, by rw [State.oweSettle_host, hhost]⟩
  exact { len := hloaded.len, rx := hloaded.rx, res := hloaded.res, frame := hloaded.frame }

end Sys2Proof.Machine
end

section
/-! PROOFS. What the operations have in common: each ends, with one of its statuses; one that fails, or writes nothing, changes the RES
port alone; a transaction that is none is answered `IllegalOp`. -/

namespace Sys2Proof.Machine

/-! ### Statuses -/

/-- R133: the two statuses of a response without a code. -/
theorem ackRaises_cases (s : State) :
    Claims.ackRaises s = some 0x01 ∨ Claims.ackRaises s = some 0x02 ∨ Claims.ackRaises s = none := by
  unfold Claims.ackRaises
  split
  · exact .inl rfl
  split
  · exact .inr (.inl rfl)
  · exact .inr (.inr rfl)

/-- How an operation of the block ends: with `OK`, or with another of its statuses and the state as it was but for the RES port. -/
def EndsLawfully (i : Instr) (s : State) : Prop :=
  (∃ t, exec i s = .next t ∧ t.status = 0x00) ∨
    ∃ st bytes, st ∈ Claims.statuses i ∧ exec i s = .next (Claims.answers s (st :: bytes))

/-- A pure operation ends so, if the first byte of its answer is a status of its list. -/
theorem endsLawfully_of_answers {i : Instr} {s : State} {st : Byte} {bytes : List Byte}
    (h : exec i s = .next (Claims.answers s (st :: bytes))) (hst : st ∈ Claims.statuses i) : EndsLawfully i s :=
  .inr ⟨st, bytes, hst, h⟩

theorem endsLawfully_decAck (s : State) : EndsLawfully .decAck s := by
  have h := exec_decAck s
  unfold ackRes at h
  obtain hraises | hraises | hraises := ackRaises_cases s <;> rw [hraises] at h <;>
    exact endsLawfully_of_answers h (by simp [Claims.statuses])

theorem endsLawfully_decMatch (exp : Word) (s : State) : EndsLawfully (.decMatch exp) s := by
  have h := exec_decMatch_eq exp s
  unfold matchRes at h
  obtain hraises | hraises | hraises := ackRaises_cases s <;> rw [hraises] at h
  · exact endsLawfully_of_answers h (by simp [Claims.statuses])
  · exact endsLawfully_of_answers h (by simp [Claims.statuses])
  · by_cases hcode : Claims.ackOf s = exp
    · simp only [if_pos hcode] at h
      exact endsLawfully_of_answers h (by simp [Claims.statuses])
    · simp only [if_neg hcode] at h
      exact endsLawfully_of_answers h (by simp [Claims.statuses])

theorem endsLawfully_decInfo (s : State) : EndsLawfully .decInfo s := by
  have h := exec_decInfo s
  unfold Claims.infoRes at h
  obtain hraises | hraises | hraises := ackRaises_cases s <;> rw [hraises] at h
  · exact endsLawfully_of_answers h (by simp [Claims.statuses])
  · exact endsLawfully_of_answers h (by simp [Claims.statuses])
  · dsimp only at h
    split_ifs at h <;> exact endsLawfully_of_answers h (by simp [Claims.statuses])

theorem endsLawfully_decSpir (offset : Offset) (len : Word) (s : State) : EndsLawfully (.decSpir offset len) s := by
  have h := exec_decSpir offset len s
  unfold Claims.spirRes at h
  split_ifs at h <;> exact endsLawfully_of_answers h (by simp [Claims.statuses])

theorem endsLawfully_smpUnpk (s : State) : EndsLawfully .smpUnpk s := by
  have h := exec_smpUnpk s
  unfold sampleRes at h
  split_ifs at h <;> exact endsLawfully_of_answers h (by simp [Claims.statuses])

theorem endsLawfully_triPack (a b : Word) (s : State) : EndsLawfully (.triPack a b) s := by
  have h := exec_triPack a b s
  split_ifs at h <;> exact endsLawfully_of_answers h (by simp [Claims.statuses])

theorem endsLawfully_rxLoad (bytes : List Byte) (s : State) : EndsLawfully (.rxLoad bytes) s := by
  obtain ⟨-, h⟩ | ⟨-, h⟩ := loadResponse_next bytes s
  · exact .inl ⟨_, h, rfl⟩
  · exact endsLawfully_of_answers h (by simp [Claims.statuses])

theorem endsLawfully_encSpiw (cmd : Byte) (offset : Offset) (data : List Byte) (s : State) :
    EndsLawfully (.encSpiw cmd offset data) s := by
  rcases Nat.lt_or_ge 29 data.length with hlen | hlen
  · exact endsLawfully_of_answers (exec_encSpiw_of_gt hlen cmd offset s) (by simp [Claims.statuses])
  · exact .inl ⟨_, exec_encSpiw_of_le hlen cmd offset s, rfl⟩

/-- What `NORM` answers (R161). -/
theorem exec_norm (rawX rawY xmin xc xmax ymin yc ymax : Word) (s : State) :
    exec (.norm rawX rawY xmin xc xmax ymin yc ymax) s = .next (Claims.answers s (
      match normalize Binary32.num rawX rawY xmin xc xmax ymin yc ymax with
      | some o => 0x00 :: (word32 o.1 ++ word32 o.2)
      | none => [0x12])) := by
  simp only [exec, execNorm]
  cases normalize Binary32.num rawX rawY xmin xc xmax ymin yc ymax <;> rfl

theorem endsLawfully_norm (rawX rawY xmin xc xmax ymin yc ymax : Word) (s : State) :
    EndsLawfully (.norm rawX rawY xmin xc xmax ymin yc ymax) s := by
  have h := exec_norm rawX rawY xmin xc xmax ymin yc ymax s
  cases hn : normalize Binary32.num rawX rawY xmin xc xmax ymin yc ymax <;> rw [hn] at h <;>
    exact endsLawfully_of_answers h (by simp [Claims.statuses])

theorem exec_endsLawfully {i : Instr} (hp : i.port = .cmd) (s : State) : EndsLawfully i s := by
  cases i with
  | crc8Init => exact .inl ⟨_, exec_crc8Init s, rfl⟩
  | crc8Upd b => exact .inl ⟨_, exec_crc8Upd b s, rfl⟩
  | crc8Get => exact .inl ⟨_, exec_crc8Get s, rfl⟩
  | crc8Buf bytes => exact .inl ⟨_, exec_crc8Buf bytes s, rfl⟩
  | seqRst => exact .inl ⟨_, exec_seqRst s, rfl⟩
  | encInfo cmd => exact .inl ⟨_, exec_encInfo cmd s, rfl⟩
  | encMode cmd mode => exact .inl ⟨_, exec_encMode cmd mode s, rfl⟩
  | encSpir cmd offset size => exact .inl ⟨_, exec_encSpir cmd offset size s, rfl⟩
  | encSpiw cmd offset data => exact endsLawfully_encSpiw cmd offset data s
  | rxLoad bytes => exact endsLawfully_rxLoad bytes s
  | decAck => exact endsLawfully_decAck s
  | decMatch exp => exact endsLawfully_decMatch exp s
  | decInfo => exact endsLawfully_decInfo s
  | decSpir offset len => exact endsLawfully_decSpir offset len s
  | triPack a b => exact endsLawfully_triPack a b s
  | triUnpk t0 t1 t2 => exact .inl ⟨_, exec_triUnpk t0 t1 t2 s, rfl⟩
  | smpUnpk => exact endsLawfully_smpUnpk s
  | norm rawX rawY xmin xc xmax ymin yc ymax => exact endsLawfully_norm rawX rawY xmin xc xmax ymin yc ymax s
  | frameInfo | frameMode | frameSpir | frameSpiw | respInfo | respSpiw | respSerial => cases hp

theorem ok_mem_statuses {i : Instr} (hp : i.port = .cmd) : 0x00 ∈ Claims.statuses i := by
  cases i with
  | frameInfo | frameMode | frameSpir | frameSpiw | respInfo | respSpiw | respSerial => cases hp
  | _ => simp [Claims.statuses]

/-- Settles O35. -/
theorem operationsEndWithTheirStatuses : Obligations.OperationsEndWithTheirStatuses := by
  intro i s hp
  obtain ⟨t, h, hok⟩ | ⟨st, bytes, hst, h⟩ := exec_endsLawfully hp s
  · exact ⟨t, h, hok ▸ ok_mem_statuses hp⟩
  · exact ⟨_, h, hst⟩

/-- Settles O36: an operation that does not end with `OK` has only answered. -/
theorem failingOperationsChangeNothing : Obligations.FailingOperationsChangeNothing := by
  intro i s hp
  obtain ⟨t, h, hok⟩ | ⟨st, bytes, -, h⟩ := exec_endsLawfully hp s
  · exact ⟨t, h, fun hne => absurd hok hne⟩
  · exact ⟨_, h, fun _ => ⟨rfl, rfl, rfl, rfl, rfl, rfl⟩⟩

/-! ### Operations that write nothing -/

/-- Settles O21, by the answer of each of the operations. -/
theorem pureOperationsChangeOnlyTheResponse : Obligations.PureOperationsChangeOnlyTheResponse := by
  intro i s hi
  cases i with
  | crc8Get => exact ⟨_, exec_crc8Get s⟩
  | decAck => exact ⟨_, exec_decAck s⟩
  | decMatch exp => exact ⟨_, exec_decMatch_eq exp s⟩
  | decInfo => exact ⟨_, exec_decInfo s⟩
  | decSpir offset len => exact ⟨_, exec_decSpir offset len s⟩
  | triPack a b => exact ⟨_, exec_triPack a b s⟩
  | triUnpk t0 t1 t2 => exact ⟨_, exec_triUnpk t0 t1 t2 s⟩
  | smpUnpk => exact ⟨_, exec_smpUnpk s⟩
  | norm rawX rawY xmin xc xmax ymin yc ymax => exact ⟨_, exec_norm rawX rawY xmin xc xmax ymin yc ymax s⟩
  | _ => cases hi

/-! ### Transactions that are no operation -/

/-- Settles O37: what is not lawful does not decode. -/
theorem illegalTransactionsAreAnswered : Obligations.IllegalTransactionsAreAnswered := by
  intro ct rest s hagenda hunlawful
  have hnone : decode .cmd ct = none := by
    cases hd : decode .cmd ct with
    | none => rfl
    | some i => exact absurd ((lawfulTransactionsAreTheDecodableOnes ct).1 ⟨i, hd⟩) hunlawful
  rw [step_eq_runTask hagenda]
  simp only [runTask, issue, hnone]
  rfl

end Sys2Proof.Machine
end

section
/-! PROOFS. The device's side: a frame of the table is its latest request, and an SPI write either writes its data or leaves `FLASH`
unknown. -/

namespace Sys2Proof.Machine

theorem exec_frameSpiw (cmd : Byte) (timer : BitVec 4) (offset : Offset) (data : List Byte) (s : State) :
    exec (.frameSpiw cmd timer offset data) s =
      .next (s.setDevice { writeFlash s offset data with request := some (.spiWrite offset data) }) := rfl

theorem writeFlash_known {s : State} {offset : Offset} {data : List Byte} (h : writeKnown s offset data = true) :
    writeFlash s offset data = { s.device with flash := Memory.writeBytes s.device.flash offset.toNat data } := if_pos h

/-- Logs 9, 10: a new epoch of unknown bytes. -/
theorem writeFlash_unknown {s : State} {offset : Offset} {data : List Byte} (h : ¬ writeKnown s offset data = true) :
    writeFlash s offset data = { s.device with flash := [], epoch := s.device.epoch + 1 } := if_neg h

theorem not_writeKnown {s : State} {offset : Offset} {data : List Byte} (h : Claims.noStatedOutcome s offset data) :
    ¬ writeKnown s offset data = true := by
  rw [writeKnown_iff]
  rintro ⟨howed, hne, hmapped⟩
  obtain h | h | ⟨i, hi, h⟩ := h
  · rw [howed] at h
    cases h
  · exact hne h
  · exact h (hmapped i hi)

/-- Settles O39: only the write of unknown outcome is more than a note. -/
theorem framesReachTheDevice : Obligations.FramesReachTheDevice := by
  intro cmd timer mode offset size data s
  refine ⟨rfl, rfl, rfl, fun h => ?_⟩
  rw [exec_frameSpiw, writeFlash_unknown (not_writeKnown h)]
  rfl

/-- Settles O40: a byte of the range reads as written, any other as before. -/
theorem spiwFrameWritesFlash : Obligations.SpiwFrameWritesFlash := by
  intro cmd timer offset data s howed hne hmapped
  have hknown := (writeKnown_iff s offset data).2 ⟨howed, hne, hmapped⟩
  refine ⟨_, exec_frameSpiw cmd timer offset data s, fun i hi => ?_, fun a ha => ?_, rfl, ?_, ?_, rfl⟩ <;>
    simp only [State.setDevice_device, writeFlash_known hknown, Device.flashByte]
  · have hin : offset.toNat ≤ offset.toNat + i ∧ offset.toNat + i < offset.toNat + data.length := by omega
    rw [Memory.find_writeBytes, if_pos hin, Nat.add_sub_cancel_left, List.getElem?_eq_getElem hi, List.getD_eq_getElem _ _ hi]
    rfl
  · have hout : ¬ (offset.toNat ≤ a ∧ a < offset.toNat + data.length) := by omega
    rw [Memory.find_writeBytes, if_neg hout]

end Sys2Proof.Machine
end

section
/-! PROOFS. The step on a single move of the host: a transaction, a frame, a response, a session, a reset; and the notes of the exchange
in the words of the rules. -/

namespace Sys2Proof.Machine

/-! ### The notes of the exchange -/

/-- An exchange that is dropped where a test holds, and is else as it was. -/
theorem resolved_filter {p : Exchange → Prop} {b : Exchange → Bool} {x : Option Exchange} (h : ∀ e, x = some e → (b e = true ↔ p e)) :
    Claims.Resolved p x (x.filter fun e => !b e) := by
  cases x with
  | none => exact ⟨fun _ he => (nomatch he), fun _ => rfl⟩
  | some e =>
    have he := h e rfl
    refine ⟨fun e' he' hp => ?_, fun hp => ?_⟩
    · cases he'
      simp [he.2 hp]
    · have hb : b e = false := Bool.eq_false_iff.2 fun hb => hp e rfl (he.1 hb)
      simp [hb]

/-- The exchange of a procedure that has ended its own. -/
theorem resolved_resolve (s : State) (r : Request) :
    Claims.Resolved (fun e => e.request = r) s.host.exchange (s.resolve r).host.exchange :=
  resolved_filter (b := fun e => e.request == r) fun _ _ => beq_iff_eq

theorem isSpiWrite_eq (r : Request) : r.isSpiWrite = Claims.isSpiWrite r := by cases r <;> rfl

theorem sendFailed_iff (s : State) (e : Exchange) : s.sendFailed e = true ↔ Claims.sendFailed s e := by
  simp only [State.sendFailed, isSpiWrite_eq, Bool.or_eq_true, Bool.and_eq_true, decide_eq_true_eq, beq_iff_eq, or_assoc, and_assoc]
  rfl

theorem exhausted_iff (s : State) (e : Exchange) : s.exhausted e = true ↔ Claims.exhausted s e := by
  simp only [State.exhausted, Bool.and_eq_true, decide_eq_true_eq, sendFailed_iff]
  rfl

theorem policyOpen_iff (r : Request) :
    r.policyOpen = true ↔ (∃ offset size, r = .spiRead offset size) ∨ ∃ mode, r = .mode mode := by
  cases r <;> simp [Request.policyOpen]

theorem mayFollow_iff (s : State) (e : Exchange) (r : Request) : s.mayFollow e r = true ↔ Claims.mayFollow s e r := by
  simp only [State.mayFollow, Claims.mayFollow, Bool.or_eq_true, Bool.and_eq_true, decide_eq_true_eq, beq_iff_eq, policyOpen_iff,
    exhausted_iff]
  exact or_congr_right (and_congr_right fun _ => or_assoc.trans (or_congr_right or_comm))

theorem outstanding_iff_claims (s : State) (r : Request) : s.outstanding r = true ↔ Claims.outstanding s r := by
  simp only [outstanding_iff, Claims.outstanding, ← mayFollow_iff, Bool.not_eq_true]

theorem nextExchange_eq (s : State) (r : Request) (complete : Bool) : s.nextExchange r complete = Claims.exchangeAfter s r complete := by
  unfold State.nextExchange Claims.exchangeAfter
  cases s.host.exchange with
  | none => rfl
  | some e =>
    simp only [Bool.and_eq_true, beq_iff_eq, Bool.not_eq_true', ← Bool.not_eq_true, exhausted_iff, sendFailed_iff]

/-! ### Transactions -/

/-- R133: where `DEC.ACK` has ended with `OK`, its result is the code. -/
theorem ackRes_ok {s : State} (h : (ackRes s).headD 0 = 0x00) : le16 (ackRes s).tail = Claims.ackOf s := by
  unfold ackRes at h ⊢
  obtain hraises | hraises | hraises := ackRaises_cases s <;> rw [hraises] at h ⊢
  · cases h
  · cases h
  · exact le16_pair _ _

/-- R190: the open test is asked about the code of the response. -/
theorem modeAccepted_decAck (s : State) :
    (Claims.answers s (ackRes s)).modeAccepted = true ↔
      (Claims.answers s (ackRes s)).status = 0x00 ∧ Config.modeAnswer (Claims.ackOf s) = true := by
  simp only [State.modeAccepted, Bool.and_eq_true, beq_iff_eq]
  refine and_congr_right fun hok => ?_
  rw [← ackRes_ok hok]
  rfl

/-- R182, R184 to R186, R189: the operation that ends an exchange with success. -/
theorem endsExchange_iff {i : Instr} {s t : State} (h : exec i s = .next t) (asked : Request) :
    endsExchange asked i t = true ↔ Claims.concludes asked i t := by
  cases asked with
  | mode m =>
    simp only [endsExchange, Claims.concludes, Bool.and_eq_true, beq_iff_eq]
    refine and_congr_right fun hi => ?_
    subst hi
    rw [exec_decAck] at h
    cases h
    exact modeAccepted_decAck s
  | info => simp [endsExchange, Claims.concludes, Config.ackInfo, Status.code]
  | spiRead offset size => simp [endsExchange, Claims.concludes, Config.ackSerial, Status.code]
  | spiWrite offset data => simp [endsExchange, Claims.concludes, Config.ackSpiw, Status.code]

theorem findsSpiwAck_iff (i : Instr) (t : State) : findsSpiwAck i t = true ↔ i = .decMatch 0x1180 ∧ t.status = 0x00 := by
  simp [findsSpiwAck, Config.ackSpiw, Status.code]

theorem buildsFrame_iff (i : Instr) (t : State) : buildsFrame i t = true ↔ Claims.isEncode i = true ∧ t.status = 0x00 := by
  cases i <;> simp [buildsFrame, Claims.isEncode, Status.code]

/-- Settles O42: the notes of `conclude`, one by one. -/
theorem stepRunsTheTransaction : Obligations.StepRunsTheTransaction := by
  intro ct rest i s hagenda hdecode
  obtain ⟨t, ht, -⟩ := exec_effect i { s with host := { s.host with agenda := rest } }
  have hhost : t.host = { s.host with agenda := rest } := exec_cmd_host (encode_of_decodeCmd hdecode).1 ht
  refine ⟨t, (t.conclude i).host.exchange, ht, ?_, ?_⟩
  · have hx : t.host.exchange = s.host.exchange := by rw [hhost]
    rw [← hx]
    exact resolved_filter (b := fun e => 0 < e.reads && endsExchange e.request i t) fun e _ => by
      rw [Bool.and_eq_true, decide_eq_true_eq, endsExchange_iff ht]
  · rw [step_eq_runTask hagenda]
    simp only [runTask, issue, hdecode, ht, andThen_next, State.conclude, State.setHost, ← findsSpiwAck_iff, ← buildsFrame_iff]
    congr 3
    · cases findsSpiwAck i t <;> simp
    · cases buildsFrame i t <;> simp

/-! ### Frames -/

theorem asks_eq_frameRequest (i : Instr) : Claims.asks i = frameRequest i := by cases i <;> rfl

/-- What decodes on the TX port asks for something. -/
theorem asking_of_decode {s : State} {i : Instr} (h : decode .tx s.txBytes = some i) :
    ∃ r, Claims.asks i = some r ∧ s.asking = some r := by
  have hport := (encodeDecode .tx _ i h).1
  obtain ⟨r, hr⟩ : ∃ r, Claims.asks i = some r := by
    cases i with
    | frameInfo | frameMode | frameSpir | frameSpiw => exact ⟨_, rfl⟩
    | _ => cases hport
  exact ⟨r, hr, by rw [State.asking, h, ← hr, asks_eq_frameRequest]; rfl⟩

/-- A frame changes the device alone. -/
theorem exec_frame {i : Instr} (hp : i.port = .tx) (s : State) : ∃ d, exec i s = .next (s.setDevice d) := by
  cases i with
  | frameInfo | frameMode | frameSpir | frameSpiw => exact ⟨_, rfl⟩
  | _ => cases hp

/-- With a session, a fresh frame that is no second one outstanding runs, if it is taken, and then its exchange is noted. -/
theorem transportWrite_frame {s : State} {i : Instr} {r : Request} (hs : s.host.session = true) (hd : decode .tx s.txBytes = some i)
    (hr : Claims.asks i = some r) (hsent : s.host.sent = false) (hout : ¬ Claims.outstanding s r) :
    transportWrite s =
      andThen (if s.nextWrite.taken then exec i s.popWrite else .next s.popWrite) fun t =>
        .next (t.noteWrite (some r) s.nextWrite.complete) := by
  obtain ⟨r', hr', hasking⟩ := asking_of_decode hd
  obtain rfl : r' = r := Option.some.inj (hr'.symm.trans hr)
  have hfresh : s.writeRefused = none := by
    rw [Option.eq_none_iff_forall_ne_some]
    intro e he
    obtain ⟨r'', hr'', hwhy⟩ := writeRefused_eq_some.1 he
    obtain rfl : r'' = r' := Option.some.inj (hr''.symm.trans hasking)
    obtain ⟨hsent', -⟩ | ⟨-, hout', -⟩ := hwhy
    · rw [hsent] at hsent'
      cases hsent'
    · exact hout ((outstanding_iff_claims s r'').1 hout')
  by_cases htaken : s.nextWrite.taken = true
  · rw [transportWrite_taken hs hfresh htaken hd, hasking, if_pos htaken]
  · rw [transportWrite_lost hs hfresh (Bool.eq_false_iff.2 htaken), hasking, if_neg htaken, andThen_next]

/-- The note of a frame in the words of the rules. -/
theorem noteWrite_eq (s : State) (r : Request) (complete : Bool) :
    s.noteWrite (some r) complete = { s with host := { s.host with
      asked := some r, exchange := some (Claims.exchangeAfter s r complete), sent := true } } := by
  rw [State.noteWrite, nextExchange_eq]
  rfl

/-- Settles O43, by why the frame is refused, and by whether it is taken. -/
theorem stepRunsTheFrame : Obligations.StepRunsTheFrame := by
  intro rest s hagenda hsession
  rw [step_eq_runTask hagenda]
  refine ⟨fun i hi => ?_, fun hnone => ?_⟩
  · obtain ⟨r, hr, hasking⟩ := asking_of_decode hi
    refine ⟨r, hr, fun hsent => ?_, fun hsent hout => ?_, fun hsent hout => ?_⟩
    · exact transportWrite_refused hsession (writeRefused_eq_some.2 ⟨r, hasking, .inl ⟨hsent, rfl⟩⟩)
    · have hout' := (outstanding_iff_claims s r).2 hout
      exact transportWrite_refused hsession (writeRefused_eq_some.2 ⟨r, hasking, .inr ⟨hsent, hout', rfl⟩⟩)
    · refine (transportWrite_frame (s := { s with host := { s.host with agenda := rest } }) hsession hi hr hsent hout).trans ?_
      show andThen (if s.nextWrite.taken = true then _ else _) _ = _
      split
      · obtain ⟨d, hd⟩ := exec_frame (encodeDecode .tx _ i hi).1 (State.popWrite { s with host := { s.host with agenda := rest } })
        have hd' : exec i { s with
          host := { s.host with agenda := rest }, transport := { s.transport with writes := s.transport.writes.tail } } = _ := hd
        rw [hd, hd', andThen_next, andThen_next, noteWrite_eq]
        rfl
      · rw [andThen_next, noteWrite_eq]
        rfl
  · by_cases htaken : s.nextWrite.taken = true
    · rw [if_pos htaken]
      exact transportWrite_unknown hsession htaken hnone
    · have hasking : s.asking = none := by rw [State.asking, hnone]; rfl
      rw [if_neg htaken]
      refine (transportWrite_lost (s := { s with host := { s.host with agenda := rest } }) hsession (writeRefused_none hnone)
        (Bool.eq_false_iff.2 htaken)).trans ?_
      show Host.Outcome.next (State.noteWrite _ s.asking _) = _
      rw [hasking]
      rfl

/-! ### Responses -/

/-- R61: the rows that a view has. -/
theorem viewHas_iff {asked : Option Request} {i : Instr} (hp : i.port = .rx) : viewHas asked i = true ↔ Claims.carriesCode asked i := by
  cases asked with
  | none => simp [viewHas, Claims.carriesCode]
  | some r =>
    cases r with
    | spiRead offset size => cases i <;> simp_all [viewHas, Claims.carriesCode, Instr.port]
    | _ => simp [viewHas, Claims.carriesCode]

/-- R61, R183: a delivery that its view makes a row is that instruction. -/
theorem receiveBytes_row {bytes : List Byte} {s : State} {i : Instr} (hd : decode .rx bytes = some i)
    (hv : Claims.carriesCode s.host.asked i) : receiveBytes bytes s = exec i s := by
  have hview := (viewHas_iff (encodeDecode .rx bytes i hd).1).2 hv
  rw [receiveBytes, hd, Option.filter_some, if_pos hview]

/-- R183: any other delivery is loaded. -/
theorem receiveBytes_other {bytes : List Byte} {s : State}
    (h : ∀ i, decode .rx bytes = some i → ¬ Claims.carriesCode s.host.asked i) : receiveBytes bytes s = exec (.rxLoad bytes) s := by
  unfold receiveBytes
  cases hd : decode .rx bytes with
  | none => rfl
  | some i =>
    have hview : viewHas s.host.asked i = false :=
      Bool.eq_false_iff.2 fun hv => h i hd ((viewHas_iff (encodeDecode .rx bytes i hd).1).1 hv)
    rw [Option.filter_some, if_neg (Bool.not_eq_true _ ▸ hview)]

/-- No byte is no row. -/
theorem receiveBytes_nil (s : State) : receiveBytes [] s = exec (.rxLoad []) s := receiveBytes_other fun _ h => nomatch h

/-- The next read, from the list of answers. -/
theorem nextRead_of_head {s : State} {e : ReadEvent} (h : s.transport.reads.head? = some e) : s.nextRead = e := by
  rw [State.nextRead, List.headD_eq_head?_getD, h]
  rfl

/-- Settles O44, answer by answer. -/
theorem stepRunsTheResponse : Obligations.StepRunsTheResponse := by
  intro ms rest s hagenda hsession
  rw [step_eq_runTask hagenda]
  have hpop : ({ s with host := { s.host with agenda := rest } } : State).popRead ms =
      { s with
        host := { s.host with agenda := rest, ms := ms, exchange := s.host.exchange.map fun e =>
          { e with reads := e.reads + 1, failed := decide (s.nextRead = .error) } },
        transport := { s.transport with reads := s.transport.reads.tail } } := rfl
  have harrives : ∀ bytes, s.arriving = some bytes →
      runTask (.read ms) { s with host := { s.host with agenda := rest } } = receiveBytes bytes _ :=
    fun bytes h => (transportRead_arriving (s := { s with host := { s.host with agenda := rest } }) hsession h).trans
      (congrArg (receiveBytes bytes) hpop)
  refine ⟨fun bytes h => ?_, fun noise h => ?_, fun h => ?_, fun h => ?_⟩
  · have ha : s.arriving = some bytes := by rw [State.arriving, nextRead_of_head h]
    rw [harrives bytes ha]
    exact ⟨fun i hd hv => receiveBytes_row hd hv, fun h => receiveBytes_other h⟩
  · have ha : s.arriving = some (answerFrom s.device 0 noise) := by rw [State.arriving, nextRead_of_head h]
    rw [harrives _ ha]
    exact ⟨fun i hd hv => receiveBytes_row hd hv, fun h => receiveBytes_other h⟩
  · have htimeout : s.nextRead = .timeout := by
      obtain h | h := h
      · rw [State.nextRead, h]
        rfl
      · exact nextRead_of_head h
    have ha : s.arriving = some [] := by rw [State.arriving, htimeout]
    rw [harrives _ ha]
    exact receiveBytes_nil _
  · have ha : s.arriving = none := by rw [State.arriving, nextRead_of_head h]
    exact (transportRead_failed (s := { s with host := { s.host with agenda := rest } }) hsession ha).trans (congrArg _ hpop)

/-! ### Sessions, idling, reset -/

/-- R243: in a procedure, too, a call of the transport stops without a session. -/
theorem hostWrite_noSession {s : State} (hs : s.host.session = false) (own : Request) (carryOn resend : State → Result) :
    hostWrite own carryOn resend s = .fault .noSession := by
  rw [hostWrite, transportWrite_noSession hs]
  rfl

theorem hostRead_noSession {s : State} (hs : s.host.session = false) (ms : Nat) (judge failed : State → Result) :
    hostRead ms judge failed s = .fault .noSession := by
  rw [hostRead, transportRead_noSession hs]
  rfl

/-- R243: every task whose next move is a call of the transport. -/
theorem runTask_noSession {task : Task} {s : State} (hs : s.host.session = false) (hc : Claims.callsTransport task) :
    runTask task s = .fault .noSession := by
  cases task with
  | write => exact transportWrite_noSession hs
  | read ms => exact transportRead_noSession hs
  | query q cmd p =>
    obtain h | h := hc <;> simp only [runTask, stepQuery, h]
    · exact hostWrite_noSession hs _ _ _
    · exact hostRead_noSession hs _ _ _
  | writeSpi cmd offset data more p =>
    obtain h | h := hc <;> simp only [runTask, stepWriteSpi, h]
    · exact hostWrite_noSession hs _ _ _
    · exact hostRead_noSession hs _ _ _
  | readSpi cmd offset len bound p =>
    obtain h | ⟨h, hbound⟩ := hc <;> simp only [runTask, stepReadSpi, h]
    · exact hostWrite_noSession hs _ _ _
    · have hleft : ¬ readsUsedUp bound p.reads = true := by
        rw [readsUsedUp_iff]
        rintro ⟨n, hn, hle⟩
        have := hbound n hn
        omega
      rw [if_neg hleft]
      exact hostRead_noSession hs _ _ _
  | capture cmd params point =>
    obtain rfl | rfl | rfl := hc <;> simp only [runTask, stepCapture]
    · exact hostWrite_noSession hs _ _ _
    · exact hostRead_noSession hs _ _ _
    · exact hostRead_noSession hs _ _ _
  | _ => cases hc

/-- Settles O45. -/
theorem idleAndSessions : Obligations.IdleAndSessions := by
  refine ⟨fun s h => ?_, fun k rest s h => ?_, fun rest s h => ?_, fun task rest s hs h hc => ?_⟩
  · rw [step, h]
  · rw [step_eq_runTask h]
    rfl
  · rw [step_eq_runTask h]
    rfl
  · rw [step_eq_runTask h]
    exact runTask_noSession hs hc

/-- Settles O51. -/
theorem resetOfTheBlock : Obligations.ResetOfTheBlock := by
  refine ⟨⟨rfl, rfl, rfl, fun _ => rfl, fun _ => rfl⟩, fun s rest h => ?_⟩
  rw [step_eq_runTask h]
  exact ⟨_, rfl, ⟨rfl, rfl, rfl, rfl, rfl⟩, rfl, rfl, rfl⟩

end Sys2Proof.Machine
end

section
/-! PROOFS. What the moves of a procedure share (R180 to R186): a frame built, a frame written, a read, and what follows a failure. -/

namespace Sys2Proof.Machine

/-! ### A move at the ports -/

/-- R113: a procedure that has built a frame goes on with it, a fresh one. -/
theorem goOnWithFrame_of_sent {i : Instr} {u t : State} {f : List Byte} (h : exec i u = .next t) (hsent : Claims.Sent u t f) (task : Task) :
    ∃ t', andThen (exec i u) (goOnWithFrame task) = .next t' ∧ t'.txBytes = f ∧ t'.seq = u.seq + 1 ∧
      t'.host = { u.host with agenda := task :: u.host.agenda, sent := false } := by
  obtain ⟨-, -, -, hhost, -, -⟩ := hsent.frame
  refine ⟨(t.setSent false).plan task, by rw [h]; rfl, hsent.tx, hsent.seq, ?_⟩
  simp [hhost]

/-- A frame written whole, the exchange noted (R127, R249). -/
theorem transportWrite_next {u : State} {i : Instr} {r : Request} (hs : u.host.session = true) (hd : decode .tx u.txBytes = some i)
    (hr : Claims.asks i = some r) (hsent : u.host.sent = false) (hout : ¬ Claims.outstanding u r) :
    ∃ t, transportWrite u = .next t ∧ t.host = { u.host with
      asked := some r, exchange := some (Claims.exchangeAfter u r u.nextWrite.complete), sent := true } ∧
      t.transport = { u.transport with writes := u.transport.writes.tail } ∧ Claims.BlockSame u t := by
  rw [transportWrite_frame hs hd hr hsent hout]
  split
  · obtain ⟨d, hexec⟩ := exec_frame (encodeDecode .tx _ i hd).1 u.popWrite
    refine ⟨(u.popWrite.setDevice d).noteWrite (some r) u.nextWrite.complete, by rw [hexec, andThen_next], ?_, rfl,
      ⟨rfl, rfl, rfl, rfl, rfl⟩⟩
    rw [noteWrite_eq]
    rfl
  · refine ⟨u.popWrite.noteWrite (some r) u.nextWrite.complete, by rw [andThen_next], ?_, rfl, ⟨rfl, rfl, rfl, rfl, rfl⟩⟩
    rw [noteWrite_eq]
    rfl

/-- The `write` of a procedure whose frame is written whole goes on. -/
theorem hostWrite_of_complete {u t : State} (h : transportWrite u = .next t) (hc : u.nextWrite.complete = true) (own : Request)
    (carryOn resend : State → Result) : hostWrite own carryOn resend u = carryOn t := by
  rw [hostWrite, h, andThen_next]
  cases hw : u.nextWrite with
  | done taken => rfl
  | failed taken => rw [hw] at hc; cases hc

/-- The host after a read: its time, one read more of its exchange, and the settle delay perhaps owed (R180, R183, R251). -/
def hostAfterRead (u : State) (ms : Nat) (owed : Bool) : HostState :=
  { u.host with
    ms := ms, exchange := u.host.exchange.map (Exchange.afterRead (u.nextRead == .error)), settleOwed := owed }

/-- The read of a procedure: on to the judgement, or to what follows an error (U14). -/
theorem hostRead_next {u : State} (hs : u.host.session = true) (ms : Nat) (judge failed : State → Result) :
    ∃ t owed, t.host = hostAfterRead u ms owed ∧
      hostRead ms judge failed u = if u.nextRead = .error then failed t else judge t := by
  obtain ⟨t, h, e⟩ := transportRead_next (ms := ms) hs
  have hhost : ∃ owed, t.host = hostAfterRead u ms owed := by
    obtain hh | hh := e.host
    · exact ⟨u.host.settleOwed, hh⟩
    · exact ⟨true, hh⟩
  obtain ⟨owed, hhost⟩ := hhost
  refine ⟨t, owed, hhost, ?_⟩
  rw [hostRead, h, andThen_next]
  cases hr : u.nextRead <;> simp [State.arriving, hr]

/-! ### The bounded policies after a failure -/

/-- R184, R185: another exchange, or the end after the 20th. -/
theorem resendOrFail_next (own : Request) (task : Progress → Task) (p : Progress) (t : State) :
    ∃ t', resendOrFail own task p t = .next t' ∧ t'.res = t.res ∧ Claims.BlockSame t t' ∧
      t'.host = Claims.retried task p False t.host.agenda (t.resolve own).host.exchange t.host := by
  have hinner : ¬ (False ∧ p.reads + 1 < 8) := fun h => h.1
  unfold resendOrFail Claims.retried
  rw [if_neg hinner]
  by_cases h : p.sends + 1 < 20
  · rw [if_pos h]
    exact ⟨_, if_pos h, rfl, ⟨rfl, rfl, rfl, rfl, rfl⟩, rfl⟩
  · rw [if_neg h]
    exact ⟨_, if_neg h, rfl, ⟨rfl, rfl, rfl, rfl, rfl⟩, rfl⟩

/-- R184, R185: another read, after the 8th another exchange. -/
theorem rereadOrResend_next (own : Request) (task : Progress → Task) (p : Progress) (t : State) :
    ∃ t', rereadOrResend own task p t = .next t' ∧ t'.res = t.res ∧ Claims.BlockSame t t' ∧
      t'.host = Claims.retried task p True t.host.agenda (t.resolve own).host.exchange t.host := by
  by_cases h : p.reads + 1 < 8
  · have hinner : True ∧ p.reads + 1 < 8 := ⟨trivial, h⟩
    rw [Claims.retried, if_pos hinner]
    exact ⟨_, if_pos h, rfl, ⟨rfl, rfl, rfl, rfl, rfl⟩, rfl⟩
  · obtain ⟨t', ht', hres, hblock, hhost⟩ := resendOrFail_next own task p t
    refine ⟨t', ?_, hres, hblock, ?_⟩
    · rw [rereadOrResend]
      exact (if_neg h).trans ht'
    · rw [hhost]
      simp [Claims.retried, h]

end Sys2Proof.Machine
end

section
/-! PROOFS. Policy 2: the query, at each of its points (R184, R189). -/

namespace Sys2Proof.Machine

/-! ### Policy 2: the query -/

/-- R122, R124: the frame of a query. -/
theorem exec_query_sent (q : Query) (cmd : Byte) (u : State) :
    ∃ t, exec (q.request cmd) u = .next t ∧ Claims.Sent u t (Claims.queryFrame u cmd q) := by
  cases q with
  | info => exact (encInfoBuildsItsFrame cmd u).2
  | serial offset size =>
    obtain ⟨t, ht, hsent⟩ := sendFrame_sent (cmd := cmd) (sub := 0x10) (args := spiArgs offset size.toNat) (by simp [spiArgs_length]) u
    refine ⟨t, ht, ?_⟩
    rw [spiArgs_length, spiArgs, leBytes_offset, leBytes_word] at hsent
    simpa only [Claims.queryFrame, Claims.offsetBytes, Claims.wordBytes, List.append_assoc] using hsent

/-- R184, R189: the judgement of a query. -/
theorem exec_query_judge (q : Query) (u : State) : exec q.judge u = .next (Claims.answers u (Claims.queryRes u q)) := by
  cases q with
  | info => exact exec_decInfo u
  | serial offset size => exact exec_decMatch_eq 0x1090 u

/-- A judgement of a query answers a status. -/
theorem queryRes_eq_cons (u : State) (q : Query) : ∃ st bytes, Claims.queryRes u q = st :: bytes := by
  cases q with
  | info =>
    simp only [Claims.queryRes, Claims.infoRes]
    obtain h | h | h := ackRaises_cases u <;> rw [h]
    · exact ⟨_, _, rfl⟩
    · exact ⟨_, _, rfl⟩
    · dsimp only
      split_ifs <;> exact ⟨_, _, rfl⟩
  | serial offset size =>
    simp only [Claims.queryRes]
    obtain h | h | h := ackRaises_cases u <;> rw [h]
    · exact ⟨_, _, rfl⟩
    · exact ⟨_, _, rfl⟩
    · dsimp only
      split_ifs <;> exact ⟨_, _, rfl⟩

/-- The status on the RES port is `OK` if the string there, not empty, begins with it. -/
theorem status_answers {s : State} {st : Byte} {bytes res : List Byte} (h : res = st :: bytes) :
    (Claims.answers s res).status = Status.ok.code ↔ res.head? = some 0x00 := by
  subst h
  simp [State.status, Claims.answers, Status.code]

theorem queryAsks_eq (q : Query) : q.asks = Claims.queryAsks q := by cases q <;> rfl

/-- Settles O53, point by point. -/
theorem queriesSendAndJudge : Obligations.QueriesSendAndJudge := by
  intro q cmd p rest s hagenda
  rw [step_eq_runTask hagenda]
  refine ⟨fun hp => ?_, fun hp hs hc i r hd hr hsent hout => ?_, fun hp hs hread => ?_, fun hp => ?_⟩ <;>
    simp only [runTask, stepQuery, hp]
  · obtain ⟨t, ht, hsent⟩ := exec_query_sent q cmd { s with host := { s.host with agenda := rest } }
    obtain ⟨t', ht', htx, hseq, hhost⟩ := goOnWithFrame_of_sent ht hsent (.query q cmd (p.at .write))
    exact ⟨t', ht', by rw [htx]; cases q <;> rfl, hseq, by rw [hhost]; exact ⟨rfl, rfl⟩, by rw [hhost]⟩
  · obtain ⟨t, ht, hhost, -, -⟩ := transportWrite_next (u := { s with host := { s.host with agenda := rest } }) hs hd hr hsent hout
    rw [hostWrite_of_complete ht hc]
    refine ⟨_, rfl, ?_, ?_⟩
    · rw [State.plan_host, hhost]
      rfl
    · rw [State.plan_host, hhost]
  · obtain ⟨t, owed, hhost, h⟩ := hostRead_next (u := { s with host := { s.host with agenda := rest } }) hs Config.tReadI
      (goOn (.query q cmd (p.at .judge))) (boundedFailure q.asks (.query q cmd) p)
    rw [h]
    refine ⟨_, if_neg hread, ?_, ?_⟩
    · rw [State.plan_host, hhost]
      rfl
    · rw [State.plan_host, hhost]
      rfl
  · rw [exec_query_judge, andThen_next, ← queryAsks_eq]
    obtain ⟨st, bytes, hres⟩ := queryRes_eq_cons s q
    have hok := status_answers (s := { s with host := { s.host with agenda := rest } }) hres
    by_cases h : (Claims.queryRes s q).head? = some 0x00
    · refine ⟨_, _, if_pos (hok.2 h), ?_, ⟨rfl, rfl, rfl, rfl, rfl⟩, resolved_resolve s q.asks, ?_⟩
      · cases q <;> rfl
      · rw [if_pos h]
        cases q <;> rfl
    · obtain ⟨t', ht', hres', hblock, hhost⟩ := rereadOrResend_next q.asks (.query q cmd) p
        (Claims.answers { s with host := { s.host with agenda := rest } } (Claims.queryRes s q))
      have hq : Claims.queryRes { s with host := { s.host with agenda := rest } } q = Claims.queryRes s q := by cases q <;> rfl
      refine ⟨t', _, ?_, hres', hblock, resolved_resolve s q.asks, ?_⟩
      · rw [hq, if_neg (mt hok.1 h), ht']
      · rw [if_neg h, hhost]
        rfl

end Sys2Proof.Machine
end

section
/-! PROOFS. Policy 3: the SPI write, the writes of a plan, and the calibration writes (R185, R188, R193 to R196). -/

namespace Sys2Proof.Machine

/-! ### Results that are not `OK` -/

/-- If this is a next state, the latest procedure has ended as before or not with `OK`. -/
def EndsNotOk (before : HostResult) (r : Result) : Prop :=
  ∀ t, r = .next t → t.host.result = before ∨ ∀ bytes, t.host.result ≠ .done .ok bytes

section NotOk

variable {before : HostResult} {s : State}

theorem endsNotOk_next (h : s.host.result = before) : EndsNotOk before (.next s) := fun _ ht => by cases ht; exact .inl h

theorem endsNotOk_goOn (h : s.host.result = before) (task : Task) : EndsNotOk before (goOn task s) := endsNotOk_next h

theorem endsNotOk_finish {r : HostResult} (h : ∀ bytes, r ≠ .done .ok bytes) : EndsNotOk before (finish r s) :=
  fun _ ht => by cases ht; exact .inr h

theorem endsNotOk_andThen {r : Result} {f : State → Result} (hr : ∀ t, r = .next t → t.host.result = before)
    (hf : ∀ t, t.host.result = before → EndsNotOk before (f t)) : EndsNotOk before (andThen r f) := by
  intro t h
  obtain ⟨u, hu, ht⟩ := andThen_eq_next h
  exact hf u (hr u hu) t ht

theorem endsNotOk_resendOrFail (h : s.host.result = before) (own : Request) (task : Progress → Task) (p : Progress) :
    EndsNotOk before (resendOrFail own task p s) := by
  unfold resendOrFail
  split
  · exact endsNotOk_goOn h _
  · exact endsNotOk_finish fun _ => by simp

theorem endsNotOk_rereadOrResend (h : s.host.result = before) (own : Request) (task : Progress → Task) (p : Progress) :
    EndsNotOk before (rereadOrResend own task p s) := by
  unfold rereadOrResend
  split
  · exact endsNotOk_goOn h _
  · exact endsNotOk_resendOrFail h own task p

theorem endsNotOk_afterFailure (h : s.host.result = before) {own : Request} {carryOn resend : State → Result}
    (hc : ∀ u, u.host.result = before → EndsNotOk before (carryOn u))
    (hr : ∀ u, u.host.result = before → EndsNotOk before (resend u)) : EndsNotOk before (afterFailure own carryOn resend s) := by
  unfold afterFailure
  split
  · exact hc _ h
  · exact hr _ h
  · exact endsNotOk_finish fun _ => by simp

end NotOk

theorem Effect.host_result {s t : State} (e : Effect s t) : t.host.result = s.host.result := by
  obtain h | h := e.host <;> rw [h]

theorem exec_host_result {i : Instr} {s t : State} (h : exec i s = .next t) : t.host.result = s.host.result :=
  (Effect.of_exec h).host_result

theorem transportWrite_host_result {s t : State} (h : transportWrite s = .next t) : t.host.result = s.host.result := by
  obtain ⟨-, -, u, e, rfl⟩ := transportWrite_effect h
  rw [State.noteWrite_host_result, e.host_result]
  rfl

theorem transportRead_host_result {ms : Nat} {s t : State} (h : transportRead ms s = .next t) : t.host.result = s.host.result :=
  (transportRead_effect h).2.host_result

/-- No move of the SPI write itself ends it with `OK`. -/
theorem stepWriteSpi_endsNotOk (cmd : Byte) (offset : Offset) (data : List Byte) (rest : List FlashWrite) (p : Progress) (s : State) :
    EndsNotOk s.host.result (stepWriteSpi cmd offset data rest p s) := by
  unfold stepWriteSpi
  split
  case h_1 =>
    refine endsNotOk_andThen (fun _ h => exec_host_result h) fun t ht => ?_
    split
    · exact endsNotOk_next ht
    · exact endsNotOk_finish fun _ => by simp
  case h_2 =>
    refine endsNotOk_andThen (fun _ h => transportWrite_host_result h) fun t ht => ?_
    split
    · exact endsNotOk_goOn ht _
    · exact endsNotOk_afterFailure ht (fun _ hu => endsNotOk_goOn hu _) fun _ hu => endsNotOk_resendOrFail hu _ _ _
  case h_3 =>
    refine endsNotOk_andThen (fun _ h => transportRead_host_result h) fun t ht => ?_
    split
    · exact endsNotOk_goOn ht _
    · exact endsNotOk_afterFailure ht (fun _ hu => endsNotOk_rereadOrResend hu _ _ _) fun _ hu => endsNotOk_resendOrFail hu _ _ _
  case h_4 =>
    split
    · exact endsNotOk_resendOrFail rfl _ _ _
    refine endsNotOk_andThen (fun _ h => exec_host_result h) fun t ht => ?_
    split
    · exact endsNotOk_next ht
    · exact endsNotOk_rereadOrResend ht _ _ _

/-! ### Sending and judging -/

/-- R125: the frame of an SPI write, its size field of one byte. -/
theorem exec_encSpiw_sent {data : List Byte} (h : data.length ≤ 29) (cmd : Byte) (offset : Offset) (u : State) :
    ∃ t, exec (.encSpiw cmd offset data) u = .next t ∧ Claims.Sent u t (Claims.header u cmd 0x11 ++ Claims.offsetBytes offset ++
      [BitVec.ofNat 8 data.length, 0] ++ List.replicate 7 0 ++ data ++ List.replicate (33 - data.length) 0) := by
  rw [exec_encSpiw_of_le h]
  obtain ⟨t, ht, hsent⟩ := sendFrame_spiw_sent h cmd offset u
  have hsize : leBytes 2 data.length = [BitVec.ofNat 8 data.length, 0] := by
    have hhigh : data.length / 256 = 0 := by omega
    rw [leBytes, leBytes, leBytes, hhigh]
    rfl
  rw [spiArgs, leBytes_offset, hsize] at hsent
  exact ⟨t, ht, by simpa only [Claims.offsetBytes, List.append_assoc] using hsent⟩

/-- R134, R185: the acknowledgment of an SPI write is found in a response of at least 0xF bytes with the code 0x1180. -/
theorem matchRes_ok (exp : Word) (s : State) : (matchRes exp s).headD 0 = 0x00 ↔ 0xF ≤ s.rxLen ∧ Claims.ackOf s = exp := by
  unfold matchRes Claims.ackRaises
  by_cases hzero : s.rxLen = 0
  · simp [hzero]
  by_cases hshort : s.rxLen < 0xF
  · simp [hzero, hshort]
  · have hle : 0xF ≤ s.rxLen := Nat.not_lt.1 hshort
    by_cases hcode : Claims.ackOf s = exp <;> simp [hzero, hshort, hle, hcode]

/-- The SPI write at its judgement (R185). -/
theorem stepWriteSpi_judge (cmd : Byte) (offset : Offset) (data : List Byte) (more : List FlashWrite) {p : Progress}
    (hp : p.point = .judge) (u : State) :
    ∃ t, stepWriteSpi cmd offset data more p u = .next t ∧ Claims.BlockSame u t ∧
      t.host = if 0xF ≤ u.rxLen ∧ Claims.ackOf u = 0x1180 then
          { u.host with
            agenda := .settle cmd more :: u.host.agenda, exchange := (u.resolve (.spiWrite offset data)).host.exchange, settleOwed := true }
        else Claims.retried (.writeSpi cmd offset data more) p (u.rxLen ≠ 0) u.host.agenda
          (u.resolve (.spiWrite offset data)).host.exchange u.host := by
  simp only [stepWriteSpi, hp]
  by_cases hzero : u.rxLen = 0
  · have hshort : ¬ (0xF ≤ u.rxLen ∧ Claims.ackOf u = 0x1180) := by omega
    obtain ⟨t, ht, -, hblock, hhost⟩ := resendOrFail_next (.spiWrite offset data) (.writeSpi cmd offset data more) p u
    refine ⟨t, (if_pos hzero).trans ht, hblock, ?_⟩
    rw [hhost, if_neg hshort]
    simp [Claims.retried, hzero]
  · rw [if_neg hzero, exec_decMatch_eq, andThen_next]
    by_cases hfound : 0xF ≤ u.rxLen ∧ Claims.ackOf u = 0x1180
    · refine ⟨_, if_pos ((matchRes_ok _ u).2 hfound), ⟨rfl, rfl, rfl, rfl, rfl⟩, ?_⟩
      rw [if_pos hfound]
      rfl
    · obtain ⟨t, ht, -, hblock, hhost⟩ := rereadOrResend_next (.spiWrite offset data) (.writeSpi cmd offset data more) p
        (Claims.answers u (matchRes Config.ackSpiw u))
      refine ⟨t, (if_neg (mt (matchRes_ok _ u).1 hfound)).trans ht, hblock, ?_⟩
      rw [hhost, if_neg hfound]
      simp only [Claims.retried, ne_eq, hzero, not_false_eq_true, true_and]
      rfl

/-- Settles O54: the settle task by what is left of the plan, the rest by the point of the SPI write. -/
theorem writeSpiSendsJudgesAndSettles : Obligations.WriteSpiSendsJudgesAndSettles := by
  refine ⟨fun cmd plan rest s hagenda => ?_, fun cmd offset data more p rest s t hagenda ht hne bytes => ?_,
    fun cmd offset data more p rest s hagenda => ⟨fun hp hlen => ?_, fun hp hlen => ?_, fun hp => ?_⟩⟩
  · rw [step_eq_runTask hagenda]
    obtain _ | ⟨⟨offset, block⟩ | ⟨offset, params⟩, more⟩ := plan <;>
      exact ⟨_, rfl, rfl, rfl, ⟨rfl, rfl, rfl, rfl, rfl⟩, rfl, rfl, rfl⟩
  · rw [step_eq_runTask hagenda] at ht
    exact (stepWriteSpi_endsNotOk cmd offset data more p _ t ht).resolve_left hne bytes
  · rw [step_eq_runTask hagenda]
    obtain ⟨t, ht, hsent⟩ := exec_encSpiw_sent hlen cmd offset { s with host := { s.host with agenda := rest } }
    obtain ⟨t', ht', htx, hseq, hhost⟩ := goOnWithFrame_of_sent ht hsent (.writeSpi cmd offset data more (p.at .write))
    have hok : t.status = Status.ok.code := by rw [State.status, hsent.res]; rfl
    refine ⟨t', ?_, hseq, htx, hhost⟩
    simp only [runTask, stepWriteSpi, hp]
    rw [ht, andThen_next] at ht' ⊢
    exact (if_pos hok).trans ht'
  · rw [step_eq_runTask hagenda]
    simp only [runTask, stepWriteSpi, hp, exec_encSpiw_of_gt hlen, andThen_next]
    rfl
  · rw [step_eq_runTask hagenda]
    obtain ⟨t, ht, hblock, hhost⟩ := stepWriteSpi_judge cmd offset data more hp { s with host := { s.host with agenda := rest } }
    exact ⟨t, _, ht, hblock, resolved_resolve s (.spiWrite offset data), hhost⟩

/-! ### The calibration writes -/

/-- R156: the parameters of a plan are packed, or end it. -/
theorem stepPackParams_next (cmd : Byte) (offset : Offset) (params : StickParams) (more : List FlashWrite) (u : State) :
    ∃ t, stepPackParams cmd offset params more u = .next t ∧ Claims.BlockSame u t ∧
      if params.deadzone.toNat ≤ 0xFFF ∧ params.rangeRatio.toNat ≤ 0xFFF then
        t.host.agenda = .writeSpi cmd offset (tripletBytes params.deadzone params.rangeRatio) more Progress.start :: u.host.agenda ∧
          t.host.result = u.host.result
      else t.host.agenda = u.host.agenda ∧ t.host.result = .done .operandRange [] := by
  rw [stepPackParams, StickParams.pack, exec_triPack, andThen_next]
  by_cases h : params.deadzone.toNat ≤ 0xFFF ∧ params.rangeRatio.toNat ≤ 0xFFF
  · simp only [if_pos h]
    exact ⟨_, rfl, ⟨rfl, rfl, rfl, rfl, rfl⟩, rfl, rfl⟩
  · simp only [if_neg h]
    exact ⟨_, rfl, ⟨rfl, rfl, rfl, rfl, rfl⟩, rfl, rfl⟩

/-- Settles O56: the plan by the kind of controller, the packing by whether both parameters have 12 bits. -/
theorem calibrationWritesInOrder : Obligations.CalibrationWritesInOrder := by
  refine ⟨fun cmd rc rp lc lp rest s hagenda => ?_, fun cmd offset p more rest s hagenda => ?_⟩
  · rw [step_eq_runTask hagenda]
    simp only [runTask, stepCalibrate]
    cases s.host.kind <;> exact ⟨_, _, _, _, rfl, rfl, rfl, rfl⟩
  · rw [step_eq_runTask hagenda]
    obtain ⟨t, ht, hblock, h⟩ := stepPackParams_next cmd offset p more { s with host := { s.host with agenda := rest } }
    refine ⟨t, ht, hblock, ?_⟩
    by_cases hfit : p.deadzone.toNat ≤ 0xFFF ∧ p.rangeRatio.toNat ≤ 0xFFF
    · rw [if_pos hfit, tripletBytes_eq hfit.1] at h
      exact (if_pos hfit).mpr h
    · rw [if_neg hfit] at h
      exact (if_neg hfit).mpr h

end Sys2Proof.Machine
end

section
/-! PROOFS. Policy 1: the SPI read (R186, R187, R253): what its judgement answers, and how a failed read goes on or ends it. -/

namespace Sys2Proof.Machine

/-! ### The judgement -/

/-- R138: a response that is too short for the echo, or does not match. -/
theorem spirRes_failed {s : State} {need : Nat} {good : Bool} (h : s.rxLen < need ∨ good = false) (len : Word) :
    Claims.spirRes s len need good = [0x01] ∨ Claims.spirRes s len need good = [0x02] := by
  unfold Claims.spirRes
  by_cases hzero : s.rxLen = 0
  · exact .inl (if_pos hzero)
  by_cases hshort : s.rxLen < need
  · exact .inr (by rw [if_neg hzero, if_pos hshort])
  · have hgood : (!good) = true := by rw [h.resolve_left hshort]; rfl
    exact .inr (by rw [if_neg hzero, if_neg hshort, if_pos hgood])

/-- R138, R139: a response that matches. -/
theorem spirRes_matched {s : State} (h : 0x11 ≤ s.rxLen) (len : Word) :
    Claims.spirRes s len 0x11 true =
      if 0x14 + len.toNat ≤ s.rxLen then 0x00 :: (List.range len.toNat).map fun i => Claims.rx s (0x14 + i)
      else 0x03 :: List.replicate len.toNat 0 := by
  have hnonzero : s.rxLen ≠ 0 := by omega
  simp [Claims.spirRes, hnonzero, Nat.not_lt.2 h]

/-- The response echoes the low 16 bits of the offset, and the size (R136). -/
abbrev Echoed (s : State) (offset : Offset) (len : Word) : Prop :=
  [Claims.rx s 0xD, Claims.rx s 0xE, Claims.rx s 0xF, Claims.rx s 0x10] =
    [offset.extractLsb' 0 8, offset.extractLsb' 8 8] ++ Claims.wordBytes len

theorem echoGood_iff_echoed (offset : Offset) (len : Word) (s : State) :
    echoGood Config.echoDoc offset len s = true ↔ Echoed s offset len := by
  rw [echoGood_echoDoc]
  simp [Echoed, Claims.wordBytes, and_assoc]

/-! ### A failed read -/

section Failed

variable (own : Request) (task : Progress → Task) {bound : Option Nat} {p : Progress}

/-- R186: with the last read its bound allows the SPI read ends. -/
theorem readFailed_of_used_up (h : ∃ n, bound = some n ∧ n ≤ p.reads + 1) (t : State) :
    readFailed own task bound p t = endExchange own (.done .timeout []) t :=
  if_pos ((readsUsedUp_iff bound (p.reads + 1)).2 h)

/-- R186, R253: else it goes round again, by a read or by a send. -/
theorem readFailed_of_left (h : ∀ n, bound = some n → p.reads + 1 < n) (t : State) :
    readFailed own task bound p t = goOn (task ⟨p.sends, p.reads + 1, .read⟩) t.popChoice ∨
      readFailed own task bound p t = goOn (task ⟨p.sends + 1, p.reads + 1, .send⟩) t.popChoice := by
  have hleft : ¬ readsUsedUp bound (p.reads + 1) = true := by
    rw [readsUsedUp_iff]
    rintro ⟨n, hn, hle⟩
    have := h n hn
    omega
  rw [readFailed, if_neg hleft, readAgain]
  cases t.nextChoice with
  | resend => exact .inr rfl
  | carryOn => exact .inl rfl
  | giveUp => exact .inl rfl

/-- What a failed read leaves: the end with `Timeout`, or the task at a read or a send. -/
theorem readFailed_next (t : State) :
    ∃ t', readFailed own task bound p t = .next t' ∧ t'.res = t.res ∧
      (∀ n, bound = some n → n ≤ p.reads + 1 → t'.host.agenda = t.host.agenda ∧ t'.host.result = .done .timeout []) ∧
      ((∀ n, bound = some n → p.reads + 1 < n) →
        (t'.host.agenda = task ⟨p.sends, p.reads + 1, .read⟩ :: t.host.agenda ∧ t'.host.result = t.host.result) ∨
          (t'.host.agenda = task ⟨p.sends + 1, p.reads + 1, .send⟩ :: t.host.agenda ∧ t'.host.result = t.host.result)) := by
  by_cases h : ∃ n, bound = some n ∧ n ≤ p.reads + 1
  · refine ⟨_, readFailed_of_used_up own task h t, rfl, fun _ _ _ => ⟨rfl, rfl⟩, fun hleft => ?_⟩
    obtain ⟨n, hn, hle⟩ := h
    have := hleft n hn
    omega
  · have hleft : ∀ n, bound = some n → p.reads + 1 < n := fun n hn => Nat.lt_of_not_le fun hle => h ⟨n, hn, hle⟩
    have hnever : ∀ {P : Prop}, ∀ n, bound = some n → n ≤ p.reads + 1 → P := fun n hn hle => absurd ⟨n, hn, hle⟩ h
    obtain hgo | hgo := readFailed_of_left own task hleft t
    · exact ⟨_, hgo, rfl, hnever, fun _ => .inl ⟨rfl, rfl⟩⟩
    · exact ⟨_, hgo, rfl, hnever, fun _ => .inr ⟨rfl, rfl⟩⟩

end Failed

/-- The SPI read at its judgement (R138, R186): a match ends it, whole or cut short; anything else is a failed read. -/
theorem stepReadSpi_judge (cmd : Byte) (offset : Offset) (len : Word) (bound : Option Nat) {p : Progress} (hp : p.point = .judge)
    (u : State) :
    let own := Request.spiRead offset len
    let t := Claims.answers u (Claims.spirRes u len 0x11 (Echoed u offset len))
    stepReadSpi cmd offset len bound p u =
      if 0x11 ≤ u.rxLen ∧ Echoed u offset len then
        if 0x14 + len.toNat ≤ u.rxLen then
          endExchange own (.done .ok ((List.range len.toNat).map fun i => Claims.rx u (0x14 + i))) t
        else endExchange own (.done .shortRead (List.replicate len.toNat 0)) t
      else readFailed own (.readSpi cmd offset len bound) bound p t := by
  have hgood : echoGood Config.echoDoc offset len u = decide (Echoed u offset len) := by
    rw [Bool.eq_iff_iff, echoGood_iff_echoed, decide_eq_true_iff]
  dsimp only
  simp only [stepReadSpi, hp]
  rw [exec_decSpir, andThen_next, hgood]
  by_cases hmatch : 0x11 ≤ u.rxLen ∧ Echoed u offset len
  · rw [if_pos hmatch, decide_eq_true hmatch.2, spirRes_matched hmatch.1]
    by_cases hlong : 0x14 + len.toNat ≤ u.rxLen
    · rw [if_pos hlong, if_pos hlong]
      rfl
    · rw [if_neg hlong, if_neg hlong]
      rfl
  · have hfail : u.rxLen < 0x11 ∨ decide (Echoed u offset len) = false := by
      rw [decide_eq_false_iff_not]
      exact (not_and_or.1 hmatch).imp_left Nat.lt_of_not_le
    rw [if_neg hmatch]
    obtain h | h := spirRes_failed hfail len <;> rw [h] <;> rfl

/-- Settles O55, point by point, and at the judgement by whether the response matches and is long enough. -/
theorem readSpiReturnsOrGoesRoundAgain : Obligations.ReadSpiReturnsOrGoesRoundAgain := by
  intro cmd offset len bound p rest s hagenda
  rw [step_eq_runTask hagenda]
  refine ⟨fun hp => ?_, fun hp => ?_, fun hp hs hleft => ?_, fun hp hused => ?_⟩
  · obtain ⟨t, ht, hsent⟩ := exec_query_sent (.serial offset len) cmd { s with host := { s.host with agenda := rest } }
    obtain ⟨t', ht', htx, hseq, hhost⟩ := goOnWithFrame_of_sent ht hsent (.readSpi cmd offset len bound (p.at .write))
    refine ⟨t', ?_, hseq, htx, hhost⟩
    simp only [runTask, stepReadSpi, hp]
    exact ht'
  · have hjudge := stepReadSpi_judge cmd offset len bound hp { s with host := { s.host with agenda := rest } }
    dsimp only at hjudge
    by_cases hmatch : 0x11 ≤ s.rxLen ∧ Echoed s offset len
    · have hnot : s.rxLen < 0x11 ∨ ¬ Echoed s offset len → False := fun h => h.elim (Nat.not_lt.2 hmatch.1) fun h => h hmatch.2
      by_cases hlong : 0x14 + len.toNat ≤ s.rxLen
      · exact ⟨_, hjudge.trans ((if_pos hmatch).trans (if_pos hlong)), rfl, fun _ _ _ => ⟨rfl, rfl⟩,
          fun _ _ hshort => absurd hlong (Nat.not_le.2 hshort), fun h => (hnot h).elim⟩
      · exact ⟨_, hjudge.trans ((if_pos hmatch).trans (if_neg hlong)), rfl, fun _ _ h => absurd h hlong, fun _ _ _ => ⟨rfl, rfl⟩,
          fun h => (hnot h).elim⟩
    · obtain ⟨t', ht', hres, hused, hleft⟩ := readFailed_next (.spiRead offset len) (.readSpi cmd offset len bound) (bound := bound) (p := p)
        (Claims.answers { s with host := { s.host with agenda := rest } } (Claims.spirRes s len 0x11 (Echoed s offset len)))
      exact ⟨t', hjudge.trans ((if_neg hmatch).trans ht'), hres, fun h1 h2 _ => absurd ⟨h1, h2⟩ hmatch,
        fun h1 h2 _ => absurd ⟨h1, h2⟩ hmatch, fun _ => ⟨hused, hleft⟩⟩
  · have hgo : ¬ readsUsedUp bound p.reads = true := by
      rw [readsUsedUp_iff]
      rintro ⟨n, hn, hle⟩
      have := hleft n hn
      omega
    obtain ⟨t, owed, hhost, h⟩ := hostRead_next (u := { s with host := { s.host with agenda := rest } }) hs Config.tReadR
      (goOn (.readSpi cmd offset len bound (p.at .judge))) (readFailed (.spiRead offset len) (.readSpi cmd offset len bound) bound p)
    have hagenda' : t.host.agenda = rest := by rw [hhost]; rfl
    have hresult : t.host.result = s.host.result := by rw [hhost]; rfl
    simp only [runTask, stepReadSpi, hp, if_neg hgo]
    rw [h]
    by_cases herror : s.nextRead = .error
    · obtain ⟨t', ht', -, hused, hleft'⟩ := readFailed_next (.spiRead offset len) (.readSpi cmd offset len bound) (bound := bound) (p := p) t
      rw [hagenda'] at hused hleft'
      rw [hresult] at hleft'
      exact ⟨t', (if_pos herror).trans ht', fun hne => absurd herror hne, fun _ => ⟨hused, hleft'⟩⟩
    · exact ⟨_, if_neg herror, fun _ => ⟨congrArg _ hagenda', hresult⟩, fun he => absurd he herror⟩
  · simp only [runTask, stepReadSpi, hp]
    exact ⟨_, if_pos ((readsUsedUp_iff bound p.reads).2 hused), rfl, rfl⟩

end Sys2Proof.Machine
end

section
/-! PROOFS. The capture: the set-mode exchange before it (R190, R245), its two phases (R201 to R211), and that it ends only in phase
`Done` (R212). -/

namespace Sys2Proof.Machine

/-! ### The set-mode exchange -/

/-- R133: `DEC.ACK` finds a code in a response of at least 0xF bytes. -/
theorem ackRes_ok_iff (s : State) : (ackRes s).headD 0 = 0x00 ↔ 0xF ≤ s.rxLen := by
  unfold ackRes Claims.ackRaises
  by_cases hzero : s.rxLen = 0
  · simp [hzero]
  by_cases hshort : s.rxLen < 0xF
  · simp [hzero, hshort]
  · simp [hzero, hshort, Nat.not_lt.1 hshort]

/-- R190: the answer to the set-mode frame. -/
theorem modeAccepted_iff (u : State) :
    (Claims.answers u (ackRes u)).modeAccepted = true ↔ 0xF ≤ u.rxLen ∧ Config.modeAnswer (Claims.ackOf u) = true := by
  rw [modeAccepted_decAck]
  exact and_congr_left fun _ => ackRes_ok_iff u

/-- Log 31: without an answer the host reads again, sends again or gives up, the capture untouched. -/
theorem modeUnanswered_next (task : CapturePoint → Task) (t : State) :
    ∃ t', modeUnanswered task t = .next t' ∧ t'.host.capture = t.host.capture ∧
      (t'.host.agenda = task .answer :: t.host.agenda ∨ t'.host.agenda = task .mode :: t.host.agenda ∨
        t'.host.agenda = t.host.agenda ∧ t'.host.result = .gaveUp) := by
  unfold modeUnanswered afterFailure
  cases t.nextChoice with
  | carryOn => exact ⟨_, rfl, rfl, .inl rfl⟩
  | resend => exact ⟨_, rfl, rfl, .inr (.inl rfl)⟩
  | giveUp => exact ⟨_, rfl, rfl, .inr (.inr ⟨rfl, rfl⟩)⟩

/-- Settles O57, point by point. -/
theorem captureSetsTheStandardMode : Obligations.CaptureSetsTheStandardMode := by
  intro cmd params rest s
  refine ⟨fun hagenda => ?_, fun hagenda hs hc i r hd hr hsent hout => ?_, fun hagenda hs => ?_, fun hagenda => ?_⟩ <;>
    rw [step_eq_runTask hagenda]
  · obtain ⟨t, ht, hsent⟩ := (encModeBuildsItsFrame cmd 0x30 { s with host := { s.host with agenda := rest } }).2
    exact goOnWithFrame_of_sent ht hsent (.capture cmd params .write)
  · obtain ⟨t, ht, hhost, -, -⟩ := transportWrite_next (u := { s with host := { s.host with agenda := rest } }) hs hd hr hsent hout
    refine ⟨t.plan (.capture cmd params .answer), hostWrite_of_complete ht hc _ _ _, ?_, ?_, ?_⟩ <;> rw [State.plan_host, hhost]
    exact congrArg (fun b => some (Claims.exchangeAfter s r b)) hc
  · obtain ⟨t, owed, hhost, h⟩ := hostRead_next (u := { s with host := { s.host with agenda := rest } }) hs Config.tReadM
      (goOn (.capture cmd params .accept)) (modeUnanswered (.capture cmd params))
    have hagenda' : t.host.agenda = rest := by rw [hhost]; rfl
    have hcapture : t.host.capture = s.host.capture := by rw [hhost]; rfl
    have hresult : t.host.result = s.host.result := by rw [hhost]; rfl
    by_cases herror : s.nextRead = .error
    · obtain ⟨t', ht', hsame, hnext⟩ := modeUnanswered_next (.capture cmd params) t
      rw [hagenda'] at hnext
      exact ⟨t', h.trans ((if_pos herror).trans ht'), (if_pos herror).mpr ⟨hsame.trans hcapture, hnext⟩⟩
    · exact ⟨_, h.trans (if_neg herror), (if_neg herror).mpr ⟨congrArg _ hagenda', hresult, hcapture⟩⟩
  · simp only [runTask, stepCapture]
    rw [exec_decAck, andThen_next]
    have hiff := modeAccepted_iff { s with host := { s.host with agenda := rest } }
    by_cases haccept : 0xF ≤ s.rxLen ∧ Config.modeAnswer (Claims.ackOf s) = true
    · refine ⟨_, _, if_pos (hiff.2 haccept), resolved_resolve s (.mode 0x30), (if_pos haccept).mpr ⟨rfl, rfl, rfl, rfl, ?_⟩⟩
      intro side
      cases side <;> rfl
    · obtain ⟨t', ht', hsame, hnext⟩ := modeUnanswered_next (.capture cmd params)
        (Claims.answers { s with host := { s.host with agenda := rest } } (ackRes { s with host := { s.host with agenda := rest } }))
      exact ⟨t', _, (if_neg (mt hiff.1 haccept)).trans ht', resolved_resolve s (.mode 0x30),
        (if_neg haccept).mpr ⟨hsame, hnext⟩⟩

/-! ### The sticks -/

theorem hasLeft_iff (k : Kind) : k.hasLeft = true ↔ Claims.Side.present .left k := by
  cases k <;> simp [Kind.hasLeft, Claims.Side.present]

theorem hasRight_iff (k : Kind) : k.hasRight = true ↔ Claims.Side.present .right k := by
  cases k <;> simp [Kind.hasRight, Claims.Side.present]

/-- R202. -/
theorem add_eq_tracked (t : Track) (v : Word) : t.add v = Claims.tracked t v := rfl

/-- R202: tracking a sample, stick by stick. -/
theorem track_tracked (c : Capture) (k : Kind) (v : Sample) : Claims.Tracked k v c (c.track k v) := by
  refine ⟨rfl, fun side => ⟨by cases side <;> rfl, ?_⟩⟩
  cases side with
  | left =>
    rw [← hasLeft_iff]
    refine ⟨fun h => ?_, fun h => ?_⟩ <;> simp [Claims.Side.tracks, Capture.track, h, Claims.Side.sample, add_eq_tracked]
  | right =>
    rw [← hasRight_iff]
    refine ⟨fun h => ?_, fun h => ?_⟩ <;> simp [Claims.Side.tracks, Capture.track, h, Claims.Side.sample, add_eq_tracked]

theorem isEmpty_of_ne {t : Track} (h : t ≠ ⟨0xFFF, 0⟩) : t.isEmpty = false := beq_false_of_ne h

/-- R205, R206: the results of phase 1 from accumulators that hold a sample. -/
theorem centerResult_centered {x y : Track} (hx : x ≠ ⟨0xFFF, 0⟩) (hy : y ≠ ⟨0xFFF, 0⟩) (padInner free : Nat) (r : StickResult) :
    Claims.centered x y padInner (centerResult x y padInner free r) := by
  simp only [centerResult, isEmpty_of_ne hx, isEmpty_of_ne hy, Bool.or_self, Bool.false_eq_true, if_false]
  exact ⟨center_toNat x, center_toNat y, deadzoneOf_toNat x y padInner⟩

/-- R208, R210: the results of phase 2 from accumulators that hold a sample. -/
theorem rangeResult_bounded {x y : Track} (hx : x ≠ ⟨0xFFF, 0⟩) (hy : y ≠ ⟨0xFFF, 0⟩) (params : CaptureParams) (k : Kind) (free : Nat)
    (r : StickResult) : Claims.bounded x y params k (rangeResult x y params k free r) := by
  simp only [rangeResult, isEmpty_of_ne hx, isEmpty_of_ne hy, Bool.or_self, Bool.false_eq_true, if_false, Claims.bounded]
  refine ⟨padMin_toNat _ _, padMax_toNat _ _, padMin_toNat _ _, padMax_toNat _ _, fun hk hle => ?_, fun hk => ?_⟩
  · rw [rangeRatio, if_neg hk]
    exact spread_toNat hle _
  · have hconst := params.rrConst.isLt
    rw [rangeRatio, if_pos hk, BitVec.toNat_setWidth]
    omega

/-- R205, R206, R211: the end of phase 1, stick by stick. -/
theorem endCenter_side (c : Capture) (k : Kind) (padInner free : Nat) (side : Claims.Side) :
    side.tracks (c.endCenter k padInner free) = (⟨0xFFF, 0⟩, ⟨0xFFF, 0⟩) ∧
      (side.present k → Claims.sampled side c →
        Claims.centered (side.tracks c).1 (side.tracks c).2 padInner (side.result (c.endCenter k padInner free))) ∧
      (¬ side.present k → side.result (c.endCenter k padInner free) = side.result c) := by
  cases side with
  | left =>
    rw [← hasLeft_iff]
    refine ⟨rfl, fun hk hs => ?_, fun hk => ?_⟩ <;> simp only [Claims.Side.result, Capture.endCenter, hk, if_true]
    · exact centerResult_centered hs.1 hs.2 padInner free c.left
    · rfl
  | right =>
    rw [← hasRight_iff]
    refine ⟨rfl, fun hk hs => ?_, fun hk => ?_⟩ <;> simp only [Claims.Side.result, Capture.endCenter, hk, if_true]
    · exact centerResult_centered hs.1 hs.2 padInner (free + 3) c.right
    · rfl

/-- R208 to R211: the end of phase 2, stick by stick. -/
theorem endRange_side (c : Capture) (k : Kind) (params : CaptureParams) (free : Nat) (side : Claims.Side) :
    (side.present k →
      (Claims.sampled side c →
        Claims.bounded (side.tracks c).1 (side.tracks c).2 params k (side.result (c.endRange k params free))) ∧
      (side.result (c.endRange k params free)).xcenter = (side.result c).xcenter ∧
      (side.result (c.endRange k params free)).ycenter = (side.result c).ycenter ∧
      (side.result (c.endRange k params free)).deadzone = (side.result c).deadzone) ∧
    (¬ side.present k → side.result (c.endRange k params free) = side.result c) := by
  cases side with
  | left =>
    rw [← hasLeft_iff]
    refine ⟨fun hk => ?_, fun hk => ?_⟩ <;> simp only [Claims.Side.result, Capture.endRange, hk, if_true]
    · exact ⟨fun hs => rangeResult_bounded hs.1 hs.2 params k free c.left, rfl, rfl, rfl⟩
    · rfl
  | right =>
    rw [← hasRight_iff]
    refine ⟨fun hk => ?_, fun hk => ?_⟩ <;> simp only [Claims.Side.result, Capture.endRange, hk, if_true]
    · exact ⟨fun hs => rangeResult_bounded hs.1 hs.2 params k (free + 5) c.right, rfl, rfl, rfl⟩
    · rfl

/-! ### The judgement of a report -/

/-- R201: a report that is long enough is observed, another ignored. -/
theorem stepCapture_judge_of_sample {u : State} {v : Sample} (h : readSample u = .ok v) (cmd : Byte) (params : CaptureParams) :
    stepCapture cmd params .judge u = observe cmd params v (Claims.answers u (sampleRes u)) := by
  have hsame : readSample (Claims.answers u (sampleRes u)) = .ok v := h
  simp only [stepCapture]
  rw [exec_smpUnpk, andThen_next, hsame]

theorem stepCapture_judge_of_short {u : State} (h : u.rxLen ≤ 12) (cmd : Byte) (params : CaptureParams) :
    stepCapture cmd params .judge u = goOn (.capture cmd params .read) (Claims.answers u (sampleRes u)) := by
  have hsame : readSample (Claims.answers u (sampleRes u)) = .error (if u.rxLen = 0 then .timeout else .shortRead) :=
    readSample_of_short (s := Claims.answers u (sampleRes u)) h
  simp only [stepCapture]
  rw [exec_smpUnpk, andThen_next, hsame]

/-- Settles O58, by whether the report ends the phase. -/
theorem capturePhaseOne : Obligations.CapturePhaseOne := by
  intro cmd params rest s v hagenda hsample hphase _
  rw [step_eq_runTask hagenda]
  simp only [runTask]
  rw [stepCapture_judge_of_sample (u := { s with host := { s.host with agenda := rest } }) hsample]
  have hphase' : (Claims.answers { s with host := { s.host with agenda := rest } }
    (sampleRes { s with host := { s.host with agenda := rest } })).host.capture.phase = .awaitingCenterSample := hphase
  simp only [observe, hphase']
  by_cases hterm : Config.termCenter s.rxBytes = true
  · exact ⟨_, if_pos hterm, rfl, (if_pos hterm).mpr ⟨rfl, endCenter_side s.host.capture s.host.kind params.padInner s.host.free⟩⟩
  · exact ⟨_, if_neg hterm, rfl, (if_neg hterm).mpr (track_tracked s.host.capture s.host.kind v)⟩

/-- Settles O59, by whether the report ends the phase. -/
theorem capturePhaseTwo : Obligations.CapturePhaseTwo := by
  intro cmd params rest s v hagenda hsample hphase _
  rw [step_eq_runTask hagenda]
  simp only [runTask]
  rw [stepCapture_judge_of_sample (u := { s with host := { s.host with agenda := rest } }) hsample]
  have hphase' : (Claims.answers { s with host := { s.host with agenda := rest } }
    (sampleRes { s with host := { s.host with agenda := rest } })).host.capture.phase = .awaitingRangeSample := hphase
  simp only [observe, hphase']
  by_cases hterm : Config.termRange s.rxBytes = true
  · exact ⟨_, if_pos hterm, (if_pos hterm).mpr ⟨rfl, rfl, endRange_side s.host.capture s.host.kind params s.host.free⟩⟩
  · exact ⟨_, if_neg hterm, (if_neg hterm).mpr ⟨rfl, track_tracked s.host.capture s.host.kind v⟩⟩

/-- R211: what an observed report leaves: the capture on the agenda, or its end in phase `Done`. -/
theorem observe_next (cmd : Byte) (params : CaptureParams) (v : Sample) (u : State) :
    ∃ t, observe cmd params v u = .next t ∧
      (t.host.agenda = .capture cmd params .read :: u.host.agenda ∧ t.host.result = u.host.result ∨
        t.host.agenda = u.host.agenda ∧ t.host.result = .done .ok [] ∧ t.host.capture.phase = .done) := by
  simp only [observe]
  cases hphase : u.host.capture.phase with
  | awaitingCenterSample =>
    by_cases hterm : Config.termCenter u.rxBytes = true
    · exact ⟨_, if_pos hterm, .inl ⟨rfl, rfl⟩⟩
    · exact ⟨_, if_neg hterm, .inl ⟨rfl, rfl⟩⟩
  | awaitingRangeSample =>
    by_cases hterm : Config.termRange u.rxBytes = true
    · exact ⟨_, if_pos hterm, .inr ⟨rfl, rfl, rfl⟩⟩
    · exact ⟨_, if_neg hterm, .inl ⟨rfl, rfl⟩⟩
  | done => exact ⟨_, rfl, .inr ⟨rfl, rfl, hphase⟩⟩

/-- Settles O60. -/
theorem captureEndsOnlyInPhaseDone : Obligations.CaptureEndsOnlyInPhaseDone := by
  intro cmd params rest s
  refine ⟨fun hagenda hs => ?_, fun hagenda hshort => ?_, fun hagenda hlong => ?_⟩ <;> rw [step_eq_runTask hagenda]
  · obtain ⟨t, owed, hhost, h⟩ := hostRead_next (u := { s with host := { s.host with agenda := rest } }) hs Config.tReadC
      (goOn (.capture cmd params .judge)) (goOn (.capture cmd params .read))
    have hagenda' : t.host.agenda = rest := by rw [hhost]; rfl
    have hcapture : t.host.capture = s.host.capture := by rw [hhost]; rfl
    have hresult : t.host.result = s.host.result := by rw [hhost]; rfl
    by_cases herror : s.nextRead = .error
    · exact ⟨_, h.trans (if_pos herror), hcapture, hresult, (if_pos herror).mpr (congrArg _ hagenda')⟩
    · exact ⟨_, h.trans (if_neg herror), hcapture, hresult, (if_neg herror).mpr (congrArg _ hagenda')⟩
  · exact ⟨_, stepCapture_judge_of_short (u := { s with host := { s.host with agenda := rest } }) hshort cmd params, rfl⟩
  · have hsample := readSample_of_long (s := { s with host := { s.host with agenda := rest } }) hlong
    simp only [runTask]
    rw [stepCapture_judge_of_sample hsample]
    exact observe_next cmd params _ _

end Sys2Proof.Machine
end

section
/-! PROOFS. The bounded policies (R184, R185) under a transport that writes every frame and never answers: 20 exchanges, each with as
many reads as the policy makes, and then the end. Both policies are instances of one shape. -/

namespace Sys2Proof.Machine

/-! ### Runs -/

theorem run_succ_of_next {M : Host.Core} {n : Nat} {s t : M.State} (h : M.step s = .next t) : M.run (n + 1) s = M.run n t := by
  rw [Host.Core.run, h]

theorem run_succ_eq_next {M : Host.Core} {n : Nat} {s u : M.State} (h : M.run (n + 1) s = .next u) :
    ∃ t, M.step s = .next t ∧ M.run n t = .next u := by
  rw [Host.Core.run] at h
  cases hs : M.step s with
  | next t => rw [hs] at h; exact ⟨t, rfl, h⟩
  | fault e => rw [hs] at h; cases h
  | refused e => rw [hs] at h; cases h

/-- So many steps lead from one state to the other. -/
def Steps (n : Nat) (s t : State) : Prop := Host.Core.run core n s = .next t

theorem Steps.zero (s : State) : Steps 0 s s := rfl

theorem Steps.succ {n : Nat} {s t u : State} (h : step s = .next t) (hn : Steps n t u) : Steps (n + 1) s u :=
  (run_succ_of_next (M := core) h).trans hn

theorem Steps.trans {a b : Nat} {s t u : State} (h : Steps a s t) (h' : Steps b t u) : Steps (a + b) s u := by
  induction a generalizing s with
  | zero =>
    cases h
    rwa [Nat.zero_add]
  | succ a ih =>
    obtain ⟨v, hv, hrun⟩ := run_succ_eq_next (M := core) h
    rw [Nat.add_right_comm]
    exact .succ hv (ih hrun)

/-! ### The shape of a bounded policy -/

/-- After an encode operation of a procedure: a frame that asks for `own` stands in `TXBUF`, a fresh one, and the task goes on. -/
structure Built (own : Request) (task : Task) (u t : State) : Prop where
  frame : ∃ i, decode .tx t.txBytes = some i ∧ Claims.asks i = some own
  seq : t.seq = u.seq + 1
  rxLen : t.rxLen = u.rxLen
  transport : t.transport = u.transport
  host : t.host = { u.host with agenda := task :: u.host.agenda, sent := false }

/-- A policy that makes `R` reads in an exchange if none of them brings a byte. -/
structure BoundedPolicy (task : Progress → Task) (own : Request) (R : Nat) : Prop where
  send : ∀ k u, ∃ t, runTask (task ⟨k, 0, .send⟩) u = .next t ∧ Built own (task ⟨k, 0, .write⟩) u t
  write : ∀ k, ∃ resend, ∀ u, runTask (task ⟨k, 0, .write⟩) u = hostWrite own (goOn (task ⟨k, 0, .read⟩)) resend u
  read : ∀ k j, ∃ ms failed, ∀ u, runTask (task ⟨k, j, .read⟩) u = hostRead ms (goOn (task ⟨k, j, .judge⟩)) failed u
  judge : ∀ k j u, j < R → u.rxLen = 0 → ∃ res, runTask (task ⟨k, j, .judge⟩) u =
    if j + 1 < R then goOn (task ⟨k, j + 1, .read⟩) (u.setRes res) else resendOrFail own task ⟨k, j, .judge⟩ (u.setRes res)

theorem built_of_sent {i j : Instr} {own : Request} {u t : State} {f : List Byte} (h : exec i u = .next t) (hsent : Claims.Sent u t f)
    (hd : decode .tx t.txBytes = some j) (hj : Claims.asks j = some own) (task : Task) :
    ∃ t', andThen (exec i u) (goOnWithFrame task) = .next t' ∧ Built own task u t' := by
  obtain ⟨-, hrxLen, -, hhost, htransport, -⟩ := hsent.frame
  refine ⟨(t.setSent false).plan task, by rw [h]; rfl, ⟨j, hd, hj⟩, hsent.seq, hrxLen, htransport, ?_⟩
  simp [hhost]

/-- R185: the SPI write reads once, since a read of zero bytes leaves its inner loop. -/
theorem boundedPolicy_writeSpi {data : List Byte} (h : data.length ≤ 29) (cmd : Byte) (offset : Offset) (more : List FlashWrite) :
    BoundedPolicy (.writeSpi cmd offset data more) (.spiWrite offset data) 1 where
  send k u := by
    obtain ⟨t, ht, hsent⟩ := exec_encSpiw_sent h cmd offset u
    obtain ⟨t', ht', hd⟩ := builtFramesAreRowsOfTheTable.2.2.2 cmd offset data u h
    obtain rfl : t = t' := by
      rw [ht] at ht'
      exact (Host.Outcome.next.inj ht')
    have hok : t.status = Status.ok.code := by rw [State.status, hsent.res]; rfl
    obtain ⟨t', ht', hbuilt⟩ := built_of_sent ht hsent hd rfl (.writeSpi cmd offset data more ⟨k, 0, .write⟩)
    refine ⟨t', ?_, hbuilt⟩
    simp only [runTask, stepWriteSpi]
    rw [ht, andThen_next] at ht' ⊢
    exact (if_pos hok).trans ht'
  write k := ⟨_, fun _ => rfl⟩
  read k j := ⟨_, _, fun _ => rfl⟩
  judge k j u hj hzero := by
    have hlast : ¬ j + 1 < 1 := by omega
    refine ⟨u.res, ?_⟩
    rw [if_neg hlast]
    exact if_pos hzero

/-- R184: a query reads 8 times, a read of zero bytes being one of its attempts. -/
theorem boundedPolicy_query (q : Query) (cmd : Byte) : BoundedPolicy (.query q cmd) (Claims.queryAsks q) 8 where
  send k u := by
    obtain ⟨t, ht, hsent⟩ := exec_query_sent q cmd u
    obtain ⟨j, hd, hj⟩ : ∃ j, decode .tx t.txBytes = some j ∧ Claims.asks j = some (Claims.queryAsks q) := by
      obtain ⟨hinfo, -, hspir, -⟩ := builtFramesAreRowsOfTheTable
      cases q with
      | info =>
        obtain ⟨t', ht', hd⟩ := hinfo cmd u
        obtain rfl := Host.Outcome.next.inj (ht.symm.trans ht')
        exact ⟨_, hd, rfl⟩
      | serial offset size =>
        obtain ⟨t', ht', hd⟩ := hspir cmd offset size u
        obtain rfl := Host.Outcome.next.inj (ht.symm.trans ht')
        exact ⟨_, hd, rfl⟩
    exact built_of_sent ht hsent hd hj _
  write k := ⟨_, fun _ => by rw [← queryAsks_eq]; rfl⟩
  read k j := ⟨_, _, fun _ => rfl⟩
  judge k j u _ hzero := by
    have hres : Claims.queryRes u q = [0x01] := by
      cases q <;> simp [Claims.queryRes, Claims.infoRes, Claims.ackRaises, hzero]
    refine ⟨[0x01], ?_⟩
    simp only [runTask, stepQuery]
    rw [exec_query_judge, andThen_next, hres, ← queryAsks_eq]
    rfl

/-! ### One exchange -/

/-- Where a bounded policy stands that began in `s`: `built` frames built so far, so many writes and reads still to be answered. -/
structure Standing (task : Progress → Task) (s : State) (taken : Bool) (p : Progress) (built writes reads : Nat) (t : State) : Prop where
  session : t.host.session = true
  agenda : t.host.agenda = [task p]
  result : t.host.result = s.host.result
  seq : t.seq = s.seq + BitVec.ofNat 4 built
  transport : t.transport = ⟨List.replicate writes (.done taken), List.replicate reads .timeout⟩

/-- The exchange that is not resolved is one of `own`, with at least this many reads. -/
def Waiting (own : Request) (reads : Nat) (t : State) : Prop := ∃ e, t.host.exchange = some e ∧ e.request = own ∧ reads ≤ e.reads

/-- R185: a re-send after a read may follow. -/
theorem not_outstanding_of_waiting {own : Request} {t : State} (h : Waiting own 1 t) : ¬ Claims.outstanding t own := by
  obtain ⟨e, he, hrequest, hreads⟩ := h
  rintro ⟨e', he', hnot⟩
  obtain rfl : e = e' := Option.some.inj (he.symm.trans he')
  exact hnot (.inr ⟨hreads, .inl hrequest⟩)

section Exchange

variable {task : Progress → Task} {own : Request} {R : Nat} (hpolicy : BoundedPolicy task own R) {s t : State} {taken : Bool} {k j : Nat}
  {n w r : Nat}

/-- The task at hand is the whole agenda. -/
theorem Standing.step_eq {p : Progress} (h : Standing task s taken p n w r t) :
    step t = runTask (task p) { t with host := { t.host with agenda := [] } } := step_eq_runTask h.agenda

include hpolicy

/-- The first two moves of an exchange: a frame is built and written. -/
theorem Standing.send_write (h : Standing task s taken ⟨k, 0, .send⟩ n (w + 1) r t) (hout : ¬ Claims.outstanding t own) :
    ∃ t', Steps 2 t t' ∧ Standing task s taken ⟨k, 0, .read⟩ (n + 1) w r t' ∧ Waiting own 0 t' := by
  obtain ⟨u, hu, hbuilt⟩ := hpolicy.send k { t with host := { t.host with agenda := [] } }
  obtain ⟨i, hd, hi⟩ := hbuilt.frame
  have hagenda : u.host.agenda = [task ⟨k, 0, .write⟩] := by rw [hbuilt.host]
  have hnext : u.nextWrite = .done taken := by rw [State.nextWrite, hbuilt.transport, h.transport]; rfl
  have hout' : ¬ Claims.outstanding u own := by
    rintro ⟨e, he, hnot⟩
    rw [hbuilt.host] at he
    refine hout ⟨e, he, fun hmay => hnot ?_⟩
    simpa only [Claims.mayFollow, Claims.exhausted, Claims.sendFailed, hbuilt.rxLen] using hmay
  obtain ⟨v, hv, hhost, htransport, hblock⟩ := transportWrite_next (u := { u with host := { u.host with agenda := [] } })
    (by rw [hbuilt.host]; exact h.session) hd hi (by rw [hbuilt.host]) hout'
  obtain ⟨resend, hwrite⟩ := hpolicy.write k
  have hstep : step u = .next (v.plan (task ⟨k, 0, .read⟩)) := by
    rw [step_eq_runTask hagenda, hwrite]
    exact hostWrite_of_complete hv (congrArg WriteEvent.complete hnext) _ _ _
  refine ⟨v.plan (task ⟨k, 0, .read⟩), .succ (h.step_eq.trans hu) (.succ hstep (.zero _)), ?_, ?_⟩
  · constructor
    · rw [State.plan_host, hhost, hbuilt.host]; exact h.session
    · rw [State.plan_host, hhost]
    · rw [State.plan_host, hhost, hbuilt.host]; exact h.result
    · rw [State.plan_seq, hblock.1]
      show u.seq = _
      rw [hbuilt.seq, BitVec.ofNat_add, ← BitVec.add_assoc, ← h.seq]
      rfl
    · rw [State.plan_transport, htransport]
      show ({ u.transport with writes := u.transport.writes.tail } : Transport) = _
      rw [hbuilt.transport, h.transport]
      rfl
  · rw [Waiting, State.plan_host, hhost]
    refine ⟨_, rfl, ?_, Nat.zero_le _⟩
    unfold Claims.exchangeAfter
    split
    · split <;> rfl
    · rfl

/-- A read that times out leads to the judgement of no byte. -/
theorem Standing.read (h : Standing task s taken ⟨k, j, .read⟩ n w (r + 1) t) (hwait : Waiting own 0 t) :
    ∃ t', step t = .next t' ∧ Standing task s taken ⟨k, j, .judge⟩ n w r t' ∧ Waiting own 1 t' ∧ t'.rxLen = 0 := by
  obtain ⟨ms, failed, hread⟩ := hpolicy.read k j
  obtain ⟨e, he, hrequest, -⟩ := hwait
  have hnext : t.nextRead = .timeout := by rw [State.nextRead, h.transport]; rfl
  have harriving : t.arriving = some [] := by rw [State.arriving, hnext]
  have hload : transportRead ms { t with host := { t.host with agenda := [] } } = .next
      (((State.popRead { t with host := { t.host with agenda := [] } } ms).setRx []).setRes [0x00]) :=
    (transportRead_arriving (s := { t with host := { t.host with agenda := [] } }) h.session harriving).trans (receiveBytes_nil _)
  refine ⟨(((State.popRead { t with host := { t.host with agenda := [] } } ms).setRx []).setRes [0x00]).plan (task ⟨k, j, .judge⟩), ?_,
    ⟨h.session, rfl, h.result, h.seq, ?_⟩, ⟨Exchange.afterRead (t.nextRead == .error) e, ?_, hrequest, Nat.succ_pos _⟩, rfl⟩
  · rw [h.step_eq, hread, hostRead, hload, andThen_next]
    exact if_pos (congrArg Option.isSome harriving)
  · show ({ t.transport with reads := t.transport.reads.tail } : Transport) = _
    rw [h.transport]
    rfl
  · show t.host.exchange.map _ = _
    rw [he]
    rfl

/-- The reads of an exchange, up to the judgement of the last. -/
theorem Standing.reads (d : Nat) (hj : j + d + 1 = R) (h : Standing task s taken ⟨k, j, .read⟩ n w (r + (d + 1)) t)
    (hwait : Waiting own 0 t) : ∃ t', Steps (2 * d + 1) t t' ∧ Standing task s taken ⟨k, R - 1, .judge⟩ n w r t' ∧ Waiting own 1 t' ∧
      t'.rxLen = 0 := by
  induction d generalizing j t with
  | zero =>
    obtain ⟨t', hstep, hstanding, hwait', hzero⟩ := h.read hpolicy hwait
    obtain rfl : R - 1 = j := by omega
    exact ⟨t', .succ hstep (.zero _), hstanding, hwait', hzero⟩
  | succ d ih =>
    obtain ⟨u, hstep, hstanding, hwait', hzero⟩ := Standing.read hpolicy (r := r + (d + 1)) h hwait
    obtain ⟨res, hjudge⟩ := hpolicy.judge k j { u with host := { u.host with agenda := [] } } (by omega) hzero
    have hmore : j + 1 < R := by omega
    rw [if_pos hmore] at hjudge
    obtain ⟨e, he, hrequest, -⟩ := hwait'
    obtain ⟨t', hsteps, hlast⟩ := ih (j := j + 1) (by omega)
      (t := (State.setRes { u with host := { u.host with agenda := [] } } res).plan (task ⟨k, j + 1, .read⟩))
      ⟨hstanding.session, rfl, hstanding.result, hstanding.seq, hstanding.transport⟩ ⟨e, he, hrequest, Nat.zero_le _⟩
    exact ⟨t', .succ hstep (.succ (hstanding.step_eq.trans hjudge) hsteps), hlast⟩

/-- An exchange up to the judgement of its last read. -/
theorem Standing.exchange (hR : 0 < R) (h : Standing task s taken ⟨k, 0, .send⟩ n (w + 1) (r + R) t) (hout : ¬ Claims.outstanding t own) :
    ∃ t', Steps (2 * R + 1) t t' ∧ Standing task s taken ⟨k, R - 1, .judge⟩ (n + 1) w r t' ∧ Waiting own 1 t' ∧ t'.rxLen = 0 := by
  obtain ⟨u, hu, hstanding, hwait⟩ := h.send_write hpolicy hout
  have hd : R - 1 + 1 = R := by omega
  rw [← hd] at hstanding
  obtain ⟨t', ht', hlast⟩ := hstanding.reads hpolicy (R - 1) (by omega) hwait
  have hlen : 2 + (2 * (R - 1) + 1) = 2 * R + 1 := by omega
  exact ⟨t', hlen ▸ hu.trans ht', hlast⟩

/-- The last judgement of an exchange leads to another exchange. -/
theorem Standing.resend (hR : 0 < R) (hk : k + 1 < 20) (h : Standing task s taken ⟨k, R - 1, .judge⟩ n w r t) (hwait : Waiting own 1 t)
    (hzero : t.rxLen = 0) :
    ∃ t', step t = .next t' ∧ Standing task s taken ⟨k + 1, 0, .send⟩ n w r t' ∧ ¬ Claims.outstanding t' own := by
  obtain ⟨res, hjudge⟩ := hpolicy.judge k (R - 1) { t with host := { t.host with agenda := [] } } (by omega) hzero
  have hlast : ¬ R - 1 + 1 < R := by omega
  rw [if_neg hlast, resendOrFail] at hjudge
  exact ⟨_, h.step_eq.trans (hjudge.trans (if_pos hk)), ⟨h.session, rfl, h.result, h.seq, h.transport⟩,
    not_outstanding_of_waiting hwait⟩

/-- The last judgement of the 20th exchange ends the policy. -/
theorem Standing.fail (hR : 0 < R) (h : Standing task s taken ⟨19, R - 1, .judge⟩ n w r t) (hzero : t.rxLen = 0) :
    ∃ t', step t = .next t' ∧ t'.host.agenda = [] ∧ t'.host.result = .done .retryBudgetExhausted [] ∧ t'.seq = t.seq ∧
      t'.transport = t.transport := by
  obtain ⟨res, hjudge⟩ := hpolicy.judge 19 (R - 1) { t with host := { t.host with agenda := [] } } (by omega) hzero
  have hlast : ¬ R - 1 + 1 < R := by omega
  have hend : ¬ 19 + 1 < Config.retryOuter := by decide
  rw [if_neg hlast, resendOrFail] at hjudge
  exact ⟨_, h.step_eq.trans (hjudge.trans (if_neg hend)), rfl, rfl, rfl, rfl⟩

/-! ### Twenty exchanges -/

/-- Before exchange `k`. -/
theorem exchanges (hR : 0 < R) (h : Standing task s taken ⟨0, 0, .send⟩ 0 20 (R * 20) s) (hout : ¬ Claims.outstanding s own)
    (hk : k < 20) : ∃ t, Steps ((2 * R + 2) * k) s t ∧ Standing task s taken ⟨k, 0, .send⟩ k (20 - k) (R * (20 - k)) t ∧
      ¬ Claims.outstanding t own := by
  induction k with
  | zero => exact ⟨s, .zero s, h, hout⟩
  | succ k ih =>
    obtain ⟨u, hu, hstanding, hout'⟩ := ih (by omega)
    have hw : 20 - k = 20 - (k + 1) + 1 := by omega
    rw [hw, Nat.mul_succ] at hstanding
    obtain ⟨v, hv, hjudge, hwait, hzero⟩ := hstanding.exchange hpolicy hR hout'
    obtain ⟨t, ht, hnext, hout''⟩ := hjudge.resend hpolicy hR hk hwait hzero
    have hsteps := hu.trans (hv.trans (.succ ht (.zero t)))
    exact ⟨t, by rwa [Nat.mul_succ], hnext, hout''⟩

/-- R184, R185: with a transport that never answers the policy gives up after the 20th exchange, and not before. -/
theorem givesUp_of_boundedPolicy (hR : 0 < R) (h : Standing task s taken ⟨0, 0, .send⟩ 0 20 (R * 20) s)
    (hout : ¬ Claims.outstanding s own) : Claims.givesUp task (2 * R + 2) R s := by
  refine ⟨fun k hk => ?_, ?_⟩
  · obtain ⟨t, ht, hstanding, -⟩ := exchanges hpolicy hR h hout hk
    refine ⟨t, ht, hstanding.agenda, hstanding.result, hstanding.seq, ?_, ?_⟩ <;> rw [hstanding.transport, List.length_replicate]
  · obtain ⟨u, hu, hstanding, hout'⟩ := exchanges hpolicy hR h hout (show 19 < 20 by decide)
    obtain ⟨v, hv, hjudge, -, hzero⟩ := Standing.exchange hpolicy (w := 0) (r := 0) hR (by simpa using hstanding) hout'
    obtain ⟨t, ht, hagenda, hresult, hseq, htransport⟩ := hjudge.fail hpolicy hR hzero
    have hbefore : (2 * R + 2) * 19 + (2 * R + 1) = (2 * R + 2) * 20 - 1 := by omega
    have hall : (2 * R + 2) * 19 + (2 * R + 1 + 1) = (2 * R + 2) * 20 := by omega
    refine ⟨⟨v, _, hbefore ▸ hu.trans hv, hjudge.agenda, hjudge.result⟩,
      t, hall ▸ hu.trans (hv.trans (.succ ht (.zero t))), hagenda, hresult, ?_, ?_⟩
    · rw [hseq, hjudge.seq]
      rfl
    · rw [htransport, hjudge.transport]
      rfl

end Exchange

/-- Settles O52: both policies have the one shape, with 1 and with 8 reads an exchange. -/
theorem boundedPoliciesGiveUpAfterTwentySends : Obligations.BoundedPoliciesGiveUpAfterTwentySends := by
  refine ⟨fun cmd offset data taken s hlen hs htransport hagenda hout => ?_, fun q cmd taken s hs htransport hagenda hout => ?_⟩
  · exact givesUp_of_boundedPolicy (boundedPolicy_writeSpi hlen cmd offset []) (by decide)
      ⟨hs, hagenda, rfl, (BitVec.add_zero _).symm, htransport⟩ hout
  · exact givesUp_of_boundedPolicy (boundedPolicy_query q cmd) (by decide)
      ⟨hs, hagenda, rfl, (BitVec.add_zero _).symm, htransport⟩ hout

end Sys2Proof.Machine
end

section
/-! PROOFS. The stick normalizer over any operands (R161 to R170): which it refuses, the stages of the others, and the symmetry of the
two axes. -/

namespace Sys2Proof.Machine

/-! ### The stages -/

theorem calibOk_iff (min c max : Word) : calibOk min c max = true ↔ Claims.goodTriple min c max := by
  simp [calibOk, isU12_iff, Claims.goodTriple, and_assoc]

/-- R163 on the mathematical integers. -/
theorem clamp_toNat {lo c hi : Word} (h : Claims.goodTriple lo c hi) (raw : Word) :
    ((clamp raw lo hi).toNat : Int) = Claims.clamped raw lo hi := by
  obtain ⟨hlo, hhi, -⟩ := h
  unfold clamp Claims.clamped
  split
  · omega
  · split <;> omega

/-- R164: the one operand without a fraction. -/
theorem frac_of_zeroDivisor {raw lo c hi : Word} (h : Claims.goodTriple lo c hi) (hzero : Claims.zeroDivisor raw lo c hi) :
    frac Binary32.num (clamp raw lo hi) lo c hi = none := by
  obtain ⟨hmax, hsample⟩ := hzero
  have hclamp := clamp_toNat h raw
  rw [frac, if_pos (show c.toNat ≤ (clamp raw lo hi).toNat by omega), if_pos hmax.symm]

theorem frac_of_not_zeroDivisor {raw lo c hi : Word} (h : Claims.goodTriple lo c hi) (hzero : ¬ Claims.zeroDivisor raw lo c hi) :
    frac Binary32.num (clamp raw lo hi) lo c hi = some (Claims.fraction raw lo c hi) := by
  have hclamp := clamp_toNat h raw
  have hle : (c.toNat : Int) ≤ Claims.clamped raw lo hi ↔ c.toNat ≤ (clamp raw lo hi).toNat := by omega
  simp only [frac, Claims.fraction, hclamp, hle]
  split
  · next hc =>
    refine if_neg ?_
    rintro rfl
    have hle_hi : Claims.clamped raw lo hi ≤ hi.toNat := max_le (Int.ofNat_le.2 h.1) (min_le_right _ _)
    exact hzero ⟨rfl, Int.le_antisymm hle_hi (hle.2 hc)⟩
  · rfl

/-- R168: the range between the two thresholds is 0.75. -/
theorem legalRange_eq : legalRange Binary32.num = 0x3F400000 := by decide +kernel

/-- R165 to R167. -/
theorem deadzone_eq (xf yf : F32) : deadzone Binary32.num xf yf = Claims.lanes xf yf := by
  have hscaled : ∀ f m : F32, Binary32.mul f (scale Binary32.num m) = Claims.rescaled f m := fun f m => by
    rw [scale, legalRange_eq]
    rfl
  show (if Binary32.le (Claims.norm2 xf yf) f32Inner = true then _ else (Binary32.mul xf (scale Binary32.num (Claims.norm2 xf yf)),
    Binary32.mul yf (scale Binary32.num (Claims.norm2 xf yf)))) = _
  rw [hscaled, hscaled]
  rfl

theorem normalize_of_bad_triple {xmin xc xmax ymin yc ymax : Word}
    (h : ¬ (Claims.goodTriple xmin xc xmax ∧ Claims.goodTriple ymin yc ymax)) (rawX rawY : Word) :
    normalize Binary32.num rawX rawY xmin xc xmax ymin yc ymax = none :=
  if_neg (by rwa [Bool.and_eq_true, calibOk_iff, calibOk_iff])

section
variable {rawX rawY xmin xc xmax ymin yc ymax : Word} (hx : Claims.goodTriple xmin xc xmax) (hy : Claims.goodTriple ymin yc ymax)
include hx hy

theorem normalize_of_zeroDivisor (h : Claims.zeroDivisor rawX xmin xc xmax ∨ Claims.zeroDivisor rawY ymin yc ymax) :
    normalize Binary32.num rawX rawY xmin xc xmax ymin yc ymax = none := by
  rw [normalize, if_pos (by rw [Bool.and_eq_true, calibOk_iff, calibOk_iff]; exact ⟨hx, hy⟩)]
  rcases h with h | h
  · rw [frac_of_zeroDivisor hx h]
  · rw [frac_of_zeroDivisor hy h]
    cases frac Binary32.num (clamp rawX xmin xmax) xmin xc xmax <;> rfl

theorem normalize_of_not_zeroDivisor (hzx : ¬ Claims.zeroDivisor rawX xmin xc xmax) (hzy : ¬ Claims.zeroDivisor rawY ymin yc ymax) :
    normalize Binary32.num rawX rawY xmin xc xmax ymin yc ymax =
      some (Claims.lanes (Claims.fraction rawX xmin xc xmax) (Claims.fraction rawY ymin yc ymax)) := by
  rw [normalize, if_pos (by rw [Bool.and_eq_true, calibOk_iff, calibOk_iff]; exact ⟨hx, hy⟩), frac_of_not_zeroDivisor hx hzx,
    frac_of_not_zeroDivisor hy hzy]
  exact congrArg some (deadzone_eq _ _)

end

/-! ### The instruction -/

/-- Settles O26: the pipeline has no result there. -/
theorem normRefusesACalibration : Obligations.NormRefusesACalibration := by
  intro rawX rawY xmin xc xmax ymin yc ymax s h
  have hnone : normalize Binary32.num rawX rawY xmin xc xmax ymin yc ymax = none := by
    by_cases hgood : Claims.goodTriple xmin xc xmax ∧ Claims.goodTriple ymin yc ymax
    · exact normalize_of_zeroDivisor hgood.1 hgood.2 (h.resolve_left (not_not_intro hgood))
    · exact normalize_of_bad_triple hgood rawX rawY
  rw [exec_norm, hnone]

/-- Settles O27, stage by stage. -/
theorem normComputesThePipeline : Obligations.NormComputesThePipeline := by
  intro rawX rawY xmin xc xmax ymin yc ymax s hx hy hzx hzy
  rw [exec_norm, normalize_of_not_zeroDivisor hx hy hzx hzy]
  simp only [word32_eq]
  rfl

/-! ### The two axes -/

theorem Binary32.add_comm (x y : F32) : add x y = add y x := by
  simp only [add, Int.add_comm (value x), Bool.and_comm (isFinite x), Bool.and_comm (isNeg x)]

/-- R170: the deadzone treats both lanes alike. -/
theorem lanes_swap (xf yf : F32) : Claims.lanes yf xf = (Claims.lanes xf yf).swap := by
  have hnorm : Claims.norm2 yf xf = Claims.norm2 xf yf := congrArg Binary32.sqrt (Binary32.add_comm _ _)
  rw [Claims.lanes, Claims.lanes, hnorm]
  split <;> rfl

/-- Settles O30: the axes meet in the sum of the two squares alone. -/
theorem normLanesAreSymmetric : Obligations.NormLanesAreSymmetric := by
  intro rawX rawY xmin xc xmax ymin yc ymax s hx hy hzx hzy
  refine ⟨_, _, normComputesThePipeline rawX rawY xmin xc xmax ymin yc ymax s hx hy hzx hzy, ?_⟩
  have hswapped := normComputesThePipeline rawY rawX ymin yc ymax xmin xc xmax s hy hx hzy hzx
  rwa [lanes_swap] at hswapped

end Sys2Proof.Machine
end

section
/-! PROOFS. The rounding of binary32 (R10). A pattern without its sign bit counts the finite magnitudes in their order; `round` finds
the two patterns around the exact number and takes the nearer one, on the middle the even one. -/

namespace Sys2Proof.Machine.Binary32

/-! ### Patterns and magnitudes -/

/-- The magnitude, in units of 2^-149, of the finite value with this pattern below the sign bit. -/
def patternUnits (p : Nat) : Nat :=
  if p / 2 ^ 23 = 0 then p % 2 ^ 23 else (2 ^ 23 + p % 2 ^ 23) * 2 ^ (p / 2 ^ 23 - 1)

theorem units_eq (x : F32) : units x = patternUnits (x.toNat % 2 ^ 31) := by
  have he : x.toNat % 2 ^ 31 / 2 ^ 23 = x.toNat / 2 ^ 23 % 2 ^ 8 := by omega
  have hf : x.toNat % 2 ^ 31 % 2 ^ 23 = x.toNat % 2 ^ 23 := by omega
  rw [patternUnits, he, hf]
  rfl

theorem isFinite_iff (x : F32) : isFinite x = true ↔ x.toNat % 2 ^ 31 < 255 * 2 ^ 23 := by
  rw [isFinite, decide_eq_true_iff]
  omega

/-- The pattern of `m` units of the last place `k`; `m = 2 ^ 24` is the carry into the exponent field. -/
theorem patternUnits_of_lastPlace {k m : Nat} (hk : k = 0 ∨ 2 ^ 23 ≤ m) (hm : m ≤ 2 ^ 24) :
    patternUnits (k * 2 ^ 23 + m) = m * 2 ^ k := by
  rcases Nat.lt_or_ge m (2 ^ 23) with hlow | hlow
  · obtain rfl : k = 0 := hk.resolve_right (by omega)
    rw [patternUnits, if_pos (by omega), Nat.pow_zero]
    omega
  rcases Nat.lt_or_ge m (2 ^ 24) with hhigh | hhigh
  · have he : (k * 2 ^ 23 + m) / 2 ^ 23 = k + 1 := by omega
    have hf : 2 ^ 23 + (k * 2 ^ 23 + m) % 2 ^ 23 = m := by omega
    rw [patternUnits, he, if_neg (Nat.succ_ne_zero k), hf, Nat.add_sub_cancel]
  · obtain rfl : m = 2 ^ 24 := Nat.le_antisymm hm hhigh
    have he : (k * 2 ^ 23 + 2 ^ 24) / 2 ^ 23 = k + 2 := by omega
    have hf : (k * 2 ^ 23 + 2 ^ 24) % 2 ^ 23 = 0 := by omega
    rw [patternUnits, he, if_neg (Nat.succ_ne_zero _), hf, Nat.add_zero, show k + 2 - 1 = 1 + k by omega, Nat.pow_add,
      ← Nat.mul_assoc, ← Nat.pow_succ]

theorem exists_lastPlace (p : Nat) : ∃ k m, p = k * 2 ^ 23 + m ∧ (k = 0 ∨ 2 ^ 23 ≤ m) ∧ m < 2 ^ 24 := by
  rcases Nat.lt_or_ge p (2 ^ 23) with hp | hp
  · exact ⟨0, p, by omega, .inl rfl, by omega⟩
  · exact ⟨p / 2 ^ 23 - 1, 2 ^ 23 + p % 2 ^ 23, by omega, .inr (by omega), by omega⟩

/-- The order of the patterns is the order of the magnitudes. -/
theorem patternUnits_strictMono : StrictMono patternUnits := by
  refine strictMono_nat_of_lt_succ fun p => ?_
  obtain ⟨k, m, rfl, hk, hm⟩ := exists_lastPlace p
  rw [Nat.add_assoc, patternUnits_of_lastPlace hk (by omega), patternUnits_of_lastPlace (by omega) (by omega)]
  exact Nat.mul_lt_mul_of_pos_right (Nat.lt_succ_self m) (Nat.two_pow_pos k)

/-! ### The last place of a result -/

/-- The exponent of the last place of `num / den`, in units of 2^-149. -/
def lastPlace (num den : Nat) : Nat :=
  if num * 2 ^ den.log2 < den * 2 ^ num.log2 then num.log2 + 125 - den.log2 else num.log2 + 126 - den.log2

/-- The multiple of `d` nearest to `n`, on the middle the even one. -/
def nearestMultiple (n d : Nat) : Nat :=
  if d < 2 * (n % d) ∨ (2 * (n % d) = d ∧ n / d % 2 = 1) then n / d + 1 else n / d

/-- The pattern of the rounded magnitude. -/
def roundedPattern (num den : Nat) : Nat :=
  if num = 0 then 0
  else min (lastPlace num den * 2 ^ 23 + nearestMultiple (num * 2 ^ 149) (den * 2 ^ lastPlace num den)) 0x7F800000

theorem round_eq (neg : Bool) (num den : Nat) :
    round neg num den = BitVec.ofNat 32 ((if neg then 2 ^ 31 else 0) + roundedPattern num den) := by
  by_cases hnum : num = 0
  · simp only [round, roundedPattern, if_pos hnum, Nat.add_zero]
  · simp only [round, roundedPattern, if_neg hnum]
    rfl

theorem roundedPattern_le (num den : Nat) : roundedPattern num den ≤ 0x7F800000 := by
  unfold roundedPattern
  split
  · exact Nat.zero_le _
  · exact Nat.min_le_right _ _

theorem toNat_round (neg : Bool) (num den : Nat) :
    (round neg num den).toNat = (if neg then 2 ^ 31 else 0) + roundedPattern num den := by
  have hle := roundedPattern_le num den
  rw [round_eq, BitVec.toNat_ofNat, Nat.mod_eq_of_lt]
  split <;> omega

theorem isNeg_round (neg : Bool) (num den : Nat) : isNeg (round neg num den) = neg := by
  have hle := roundedPattern_le num den
  rw [isNeg, toNat_round]
  cases neg
  · exact decide_eq_false (by rw [if_neg Bool.false_ne_true]; omega)
  · exact decide_eq_true (Nat.le_add_right _ _)

theorem toNat_round_mod (neg : Bool) (num den : Nat) : (round neg num den).toNat % 2 ^ 31 = roundedPattern num den := by
  have hle := roundedPattern_le num den
  rw [toNat_round]
  split <;> omega

theorem units_round (neg : Bool) (num den : Nat) : units (round neg num den) = patternUnits (roundedPattern num den) := by
  rw [units_eq, toNat_round_mod]

/-- The binary exponent of `num / den`, rounded up, and the last place it gives. -/
theorem exists_exponent {num den : Nat} (hnum : 0 < num) (hden : 0 < den) : ∃ c, lastPlace num den = c + 125 - den.log2 ∧
    num * 2 ^ den.log2 < den * 2 ^ c ∧ den * 2 ^ c ≤ 2 * (num * 2 ^ den.log2) := by
  have hnum_le := Nat.mul_le_mul_right (2 ^ den.log2) (Nat.log2_self_le hnum.ne')
  have hnum_lt := Nat.mul_lt_mul_of_pos_right (Nat.lt_log2_self (n := num)) (Nat.two_pow_pos den.log2)
  have hden_le := Nat.mul_le_mul_right (2 ^ num.log2) (Nat.log2_self_le hden.ne')
  have hden_lt := Nat.mul_lt_mul_of_pos_right (Nat.lt_log2_self (n := den)) (Nat.two_pow_pos num.log2)
  rw [Nat.pow_succ] at hnum_lt hden_lt
  have hcomm := Nat.mul_comm (2 ^ num.log2) (2 ^ den.log2)
  have hnum_two := Nat.mul_right_comm (2 ^ num.log2) 2 (2 ^ den.log2)
  have hden_two := Nat.mul_right_comm (2 ^ den.log2) 2 (2 ^ num.log2)
  by_cases h : num * 2 ^ den.log2 < den * 2 ^ num.log2
  · exact ⟨num.log2, if_pos h, h, by omega⟩
  · have htwo : den * 2 ^ (num.log2 + 1) = den * 2 ^ num.log2 * 2 := by rw [Nat.pow_succ, ← Nat.mul_assoc]
    exact ⟨num.log2 + 1, if_neg h, by omega, by omega⟩

/-- The exact number is below `2 ^ 24` units of its last place, and not below `2 ^ 23` unless that is the last of all. -/
theorem lastPlace_bounds {num den : Nat} (hnum : 0 < num) (hden : 0 < den) :
    num * 2 ^ 149 < 2 ^ 24 * (den * 2 ^ lastPlace num den) ∧
      (lastPlace num den = 0 ∨ 2 ^ 23 * (den * 2 ^ lastPlace num den) ≤ num * 2 ^ 149) := by
  obtain ⟨c, hk, hlt, hle⟩ := exists_exponent hnum hden
  generalize lastPlace num den = k at *
  generalize den.log2 = b at *
  constructor
  · refine lt_of_mul_lt_mul_right ?_ (Nat.zero_le (2 ^ b))
    calc num * 2 ^ 149 * 2 ^ b = num * 2 ^ b * 2 ^ 149 := Nat.mul_right_comm ..
      _ < den * 2 ^ c * 2 ^ 149 := Nat.mul_lt_mul_of_pos_right hlt (Nat.two_pow_pos _)
      _ = den * 2 ^ (c + 149) := by rw [Nat.mul_assoc, ← Nat.pow_add]
      _ ≤ den * 2 ^ (24 + k + b) := Nat.mul_le_mul_left _ (Nat.pow_le_pow_right (by decide) (by omega))
      _ = 2 ^ 24 * (den * 2 ^ k) * 2 ^ b := by ring
  · rw [or_iff_not_imp_left]
    intro hk0
    refine Nat.le_of_mul_le_mul_right (c := 2 ^ b * 2) ?_ (by positivity)
    calc 2 ^ 23 * (den * 2 ^ k) * (2 ^ b * 2) = den * 2 ^ (k + b + 24) := by ring
      _ = den * 2 ^ c * 2 ^ 149 := by rw [show k + b + 24 = c + 149 by omega, Nat.pow_add, Nat.mul_assoc]
      _ ≤ 2 * (num * 2 ^ b) * 2 ^ 149 := Nat.mul_le_mul_right _ hle
      _ = num * 2 ^ 149 * (2 ^ b * 2) := by ring

/-! ### The nearest pattern -/

/-- How far `u` units of 2^-149 are from `n / den` units, in parts of `den`. -/
def distance (n den u : Nat) : Nat := ((u * den : Int) - n).natAbs

/-- No magnitude is nearer to `n / den` units than that of the pattern `p`, and where another is as near `p` is even. -/
def Nearest (n den p : Nat) : Prop :=
  ∀ u, u ∈ Set.range patternUnits → distance n den (patternUnits p) ≤ distance n den u ∧
    (distance n den (patternUnits p) = distance n den u → u ≠ patternUnits p → p % 2 = 0)

theorem distance_eq (n den u : Nat) : distance n den u = ((u * den : Nat) - n : Int).natAbs := by
  rw [distance, Int.natCast_mul]

/-- The magnitudes on both sides of the number; a magnitude between them there is not. -/
theorem not_between {k q p : Nat} (hk : k = 0 ∨ 2 ^ 23 ≤ q) (hq : q < 2 ^ 24) :
    patternUnits p ≤ q * 2 ^ k ∨ (q + 1) * 2 ^ k ≤ patternUnits p := by
  rw [← patternUnits_of_lastPlace hk hq.le, ← patternUnits_of_lastPlace (m := q + 1) (by omega) hq,
    patternUnits_strictMono.le_iff_le, patternUnits_strictMono.le_iff_le]
  omega

/-- Of the two patterns around the number the nearer one is the nearest of all. -/
theorem nearest_lastPlace {n den k : Nat} (hden : 0 < den) (hlt : n < 2 ^ 24 * (den * 2 ^ k)) (hle : k = 0 ∨ 2 ^ 23 * (den * 2 ^ k) ≤ n) :
    Nearest n den (k * 2 ^ 23 + nearestMultiple n (den * 2 ^ k)) := by
  have hd : 0 < den * 2 ^ k := Nat.mul_pos hden (Nat.two_pow_pos k)
  have hq : n / (den * 2 ^ k) < 2 ^ 24 := Nat.div_lt_of_lt_mul (by rwa [Nat.mul_comm])
  have hk : k = 0 ∨ 2 ^ 23 ≤ n / (den * 2 ^ k) := hle.imp_right (Nat.le_div_iff_mul_le hd).2
  have hsplit := Nat.div_add_mod n (den * 2 ^ k)
  have hmod := Nat.mod_lt n hd
  unfold nearestMultiple
  generalize n % (den * 2 ^ k) = r at *
  generalize n / (den * 2 ^ k) = q at *
  have hlow : q * 2 ^ k * den = den * 2 ^ k * q := by ring
  have hhigh : (q + 1) * 2 ^ k * den = den * 2 ^ k * q + den * 2 ^ k := by ring
  rintro _ ⟨p, rfl⟩
  have hside : patternUnits p * den ≤ den * 2 ^ k * q ∨ den * 2 ^ k * q + den * 2 ^ k ≤ patternUnits p * den := by
    rw [← hhigh, ← hlow, Nat.mul_le_mul_right_iff hden, Nat.mul_le_mul_right_iff hden]
    exact not_between hk hq
  simp only [distance_eq]
  split
  · rw [patternUnits_of_lastPlace (by omega) hq, hhigh]
    refine ⟨by omega, fun hfar hne => ?_⟩
    have hne' : patternUnits p * den ≠ den * 2 ^ k * q + den * 2 ^ k := fun h =>
      hne (Nat.eq_of_mul_eq_mul_right hden (h.trans hhigh.symm))
    omega
  · rw [patternUnits_of_lastPlace hk hq.le, hlow]
    refine ⟨by omega, fun hfar hne => ?_⟩
    have hne' : patternUnits p * den ≠ den * 2 ^ k * q := fun h => hne (Nat.eq_of_mul_eq_mul_right hden (h.trans hlow.symm))
    omega

/-- A number below `2 ^ 24 - 1/2` units is not rounded up to `2 ^ 24`. -/
theorem nearestMultiple_lt {n e : Nat} (hbound : n < (2 ^ 25 - 1) * e) : nearestMultiple n (e * 2) < 2 ^ 24 := by
  have hq : n / (e * 2) < 2 ^ 24 := Nat.div_lt_of_lt_mul (by omega)
  have hsplit := Nat.div_add_mod n (e * 2)
  unfold nearestMultiple
  generalize n % (e * 2) = r at *
  generalize n / (e * 2) = q at *
  split
  · have hne : q ≠ 2 ^ 24 - 1 := by
      rintro rfl
      omega
    omega
  · exact hq

/-- Below the overflow bound the pattern found is finite: its last place is at most 253, and there no carry can come. -/
theorem lastPlace_finite {n den k : Nat} (hlt : n < 2 ^ 24 * (den * 2 ^ k)) (hle : k = 0 ∨ 2 ^ 23 * (den * 2 ^ k) ≤ n)
    (hbound : n < (2 ^ 25 - 1) * (den * 2 ^ 252)) : k * 2 ^ 23 + nearestMultiple n (den * 2 ^ k) < 255 * 2 ^ 23 := by
  have hk : k ≤ 253 := by
    by_contra hk
    have hpow : den * 2 ^ 252 * 4 ≤ den * 2 ^ k := by
      rw [Nat.mul_assoc, ← Nat.pow_add 2 252 2]
      exact Nat.mul_le_mul_left _ (Nat.pow_le_pow_right (by decide) (by omega))
    generalize den * 2 ^ 252 = e at *
    omega
  rcases Nat.lt_or_ge k 253 with hlow | hlow
  · have hq : n / (den * 2 ^ k) < 2 ^ 24 := Nat.div_lt_of_lt_mul (by rwa [Nat.mul_comm])
    unfold nearestMultiple
    split <;> omega
  · obtain rfl : k = 253 := Nat.le_antisymm hk hlow
    have hcarry := nearestMultiple_lt hbound
    rw [show den * 2 ^ 252 * 2 = den * 2 ^ 253 by ring] at hcarry
    omega

/-! ### What `round` does -/

section
variable {num den : Nat} (hden : 0 < den) (hbound : num < (2 ^ 25 - 1) * 2 ^ 103 * den)
include hden hbound

theorem roundedPattern_spec : Nearest (num * 2 ^ 149) den (roundedPattern num den) ∧ roundedPattern num den < 255 * 2 ^ 23 := by
  rcases Nat.eq_zero_or_pos num with rfl | hnum
  · refine ⟨fun u _ => ⟨?_, fun _ _ => rfl⟩, Nat.zero_lt_succ _⟩
    rw [distance_eq, distance_eq]
    simp [roundedPattern, patternUnits]
  obtain ⟨hlt, hle⟩ := lastPlace_bounds hnum hden
  have hfinite := lastPlace_finite hlt hle (by
    calc num * 2 ^ 149 < (2 ^ 25 - 1) * 2 ^ 103 * den * 2 ^ 149 := Nat.mul_lt_mul_of_pos_right hbound (Nat.two_pow_pos _)
      _ = (2 ^ 25 - 1) * (den * 2 ^ 252) := by ring)
  rw [roundedPattern, if_neg hnum.ne', Nat.min_eq_left (show _ ≤ 0x7F800000 from hfinite.le)]
  exact ⟨nearest_lastPlace hden hlt hle, hfinite⟩

theorem isFinite_round (neg : Bool) : isFinite (round neg num den) = true := by
  rw [isFinite_iff, toNat_round_mod]
  exact (roundedPattern_spec hden hbound).2

theorem nearest_round (neg : Bool) (y : F32) :
    distance (num * 2 ^ 149) den (units (round neg num den)) ≤ distance (num * 2 ^ 149) den (units y) ∧
      (distance (num * 2 ^ 149) den (units (round neg num den)) = distance (num * 2 ^ 149) den (units y) →
        units y ≠ units (round neg num den) → (round neg num den).toNat % 2 = 0) := by
  have heven : (round neg num den).toNat % 2 = roundedPattern num den % 2 := by
    rw [toNat_round]
    split <;> omega
  rw [heven, units_round]
  exact (roundedPattern_spec hden hbound).1 _ (units_eq y ▸ Set.mem_range_self _)

end

/-- Settles O32. -/
theorem roundingIsToNearestTiesToEven : Obligations.RoundingIsToNearestTiesToEven :=
  fun neg _ _ hden hbound => ⟨isFinite_round hden hbound neg, isNeg_round .., fun y _ => nearest_round hden hbound neg y⟩

end Sys2Proof.Machine.Binary32
end

section
/-! PROOFS. The operations of binary32 (R10, R169): conversion, sum, difference, product and quotient are one rounding of the exact
value, and the root one rounding of the exact root. -/

namespace Sys2Proof.Machine.Binary32

/-! ### Signed values -/

theorem value_of_isNeg {x : F32} (h : isNeg x = true) : value x = -(units x : Int) := if_pos h

theorem value_of_not_isNeg {x : F32} (h : isNeg x = false) : value x = units x := if_neg (by rw [h]; exact Bool.false_ne_true)

theorem natAbs_value (x : F32) : (value x).natAbs = units x := by
  unfold value
  split <;> omega

theorem value_eq_zero_iff (x : F32) : value x = 0 ↔ units x = 0 := by
  rw [← natAbs_value, Int.natAbs_eq_zero]

/-- The distance of a value from a signed number is at least that of the magnitudes. -/
theorem distance_le (v : Int) (d : Nat) (y : F32) : distance v.natAbs d (units y) ≤ (value y * d - v).natAbs := by
  rw [distance_eq]
  cases h : isNeg y
  · rw [value_of_not_isNeg h, ← Int.natCast_mul]
    omega
  · rw [value_of_isNeg h, Int.neg_mul, ← Int.natCast_mul]
    omega

/-- With the sign of the number, or to a zero, it is that of the magnitudes. -/
theorem distance_of_isNeg {v : Int} {r : F32} (hneg : v ≠ 0 → isNeg r = decide (v < 0)) (d : Nat) :
    (value r * d - v).natAbs = distance v.natAbs d (units r) := by
  rw [distance_eq]
  cases h : isNeg r
  · have hv : 0 ≤ v := by
      by_contra hv
      have hsign := hneg (by omega)
      rw [h, eq_comm, decide_eq_false_iff_not] at hsign
      omega
    rw [value_of_not_isNeg h, ← Int.natCast_mul]
    omega
  · have hv : v ≤ 0 := by
      by_contra hv
      have hsign := hneg (by omega)
      rw [h, eq_comm, decide_eq_true_iff] at hsign
      omega
    rw [value_of_isNeg h, Int.neg_mul, ← Int.natCast_mul]
    omega

/-- One number in two scales has proportional distances. -/
theorem distance_mul {n d n' d' : Nat} (h : n * d' = n' * d) (u : Nat) : distance n d u * d' = distance n' d' u * d := by
  have hint : (n * d' : Int) = n' * d := by exact_mod_cast h
  calc distance n d u * d' = (((u * d : Int) - n) * d').natAbs := by rw [Int.natAbs_mul, Int.natAbs_natCast, distance]
    _ = (((u * d' : Int) - n') * d).natAbs := congrArg Int.natAbs (by linear_combination -hint)
    _ = distance n' d' u * d := by rw [Int.natAbs_mul, Int.natAbs_natCast, distance]

/-- `v / d` in the scale of `num / den`, below the overflow bound, and its sign: what makes `round` the rounding of `v / d`. -/
structure RoundsTo (neg : Bool) (num den : Nat) (v : Int) (d : Nat) : Prop where
  den_pos : 0 < den
  d_pos : 0 < d
  ratio : v.natAbs * den = num * 2 ^ 149 * d
  sign : v ≠ 0 → neg = decide (v < 0)
  bound : Claims.representable v d

namespace RoundsTo
variable {neg : Bool} {num den : Nat} {v : Int} {d : Nat} (h : RoundsTo neg num den v d)
include h

theorem num_lt : num < (2 ^ 25 - 1) * 2 ^ 103 * den := by
  have hbound : v.natAbs < (2 ^ 25 - 1) * 2 ^ 103 * 2 ^ 149 * d := h.bound
  refine Nat.lt_of_mul_lt_mul_right (a := 2 ^ 149 * d) ?_
  calc num * (2 ^ 149 * d) = v.natAbs * den := by rw [h.ratio, Nat.mul_assoc]
    _ < (2 ^ 25 - 1) * 2 ^ 103 * 2 ^ 149 * d * den := Nat.mul_lt_mul_of_pos_right hbound h.den_pos
    _ = (2 ^ 25 - 1) * 2 ^ 103 * den * (2 ^ 149 * d) := by ring

/-- The rounded magnitude is nearest in the scale of `v / d` too. -/
theorem nearest (y : F32) : distance v.natAbs d (units (round neg num den)) ≤ distance v.natAbs d (units y) ∧
    (distance v.natAbs d (units (round neg num den)) = distance v.natAbs d (units y) →
      units y ≠ units (round neg num den) → (round neg num den).toNat % 2 = 0) := by
  have hscale := distance_mul h.ratio
  obtain ⟨hle, heven⟩ := nearest_round h.den_pos h.num_lt neg y
  refine ⟨Nat.le_of_mul_le_mul_right ?_ h.den_pos, fun heq => heven (Nat.eq_of_mul_eq_mul_right h.d_pos ?_)⟩
  · rw [hscale, hscale]
    exact Nat.mul_le_mul_right d hle
  · rw [← hscale, ← hscale, heq]

/-- A zero is rounded to a zero. -/
theorem units_eq_zero (hv : v = 0) : units (round neg num den) = 0 := by
  subst hv
  have hzero := (h.nearest 0#32).1
  rw [distance_eq, distance_eq, show units 0#32 = 0 from rfl, Nat.zero_mul] at hzero
  have hprod : units (round neg num den) * d = 0 := by omega
  exact (Nat.mul_eq_zero.1 hprod).resolve_right h.d_pos.ne'

theorem isNearest : Claims.IsNearest v d (round neg num den) := by
  have hsame := distance_of_isNeg (r := round neg num den) (fun hv => (isNeg_round ..).trans (h.sign hv)) d
  refine ⟨isFinite_round h.den_pos h.num_lt neg, fun y _ => ?_⟩
  obtain ⟨hle, heven⟩ := h.nearest y
  have hother := distance_le v d y
  refine ⟨hsame.trans_le (hle.trans hother), fun heq hne => ?_⟩
  by_cases hunits : units y = units (round neg num den)
  · exfalso
    rw [← natAbs_value, ← natAbs_value] at hunits
    have hopposite := (Int.natAbs_eq_natAbs_iff.1 hunits).resolve_left hne
    have hnonzero : value (round neg num den) ≠ 0 := fun hzero => hne (by rw [hopposite, hzero, Int.neg_zero])
    have hv : v ≠ 0 := fun hv => hnonzero ((value_eq_zero_iff _).2 (h.units_eq_zero hv))
    have hprod : value (round neg num den) * d ≠ 0 := Int.mul_ne_zero hnonzero (Int.natCast_ne_zero.2 h.d_pos.ne')
    change (value _ * d - v).natAbs = (value y * d - v).natAbs at heq
    rw [hopposite, Int.neg_mul] at heq
    omega
  · change (value _ * d - v).natAbs = (value y * d - v).natAbs at heq
    exact heven (by omega) hunits

end RoundsTo

/-! ### Exact results -/

/-- A number that is a multiple of its last place is not changed. -/
theorem units_round_of_dvd {num den : Nat} (hden : 0 < den) (hbound : num < (2 ^ 25 - 1) * 2 ^ 103 * den)
    (hdvd : den * 2 ^ lastPlace num den ∣ num * 2 ^ 149) (neg : Bool) : units (round neg num den) * den = num * 2 ^ 149 := by
  rcases Nat.eq_zero_or_pos num with rfl | hnum
  · rw [units_round, roundedPattern, if_pos rfl]
    simp [patternUnits]
  obtain ⟨hlt, hle⟩ := lastPlace_bounds hnum hden
  obtain ⟨q, hq⟩ := hdvd
  have hd : 0 < den * 2 ^ lastPlace num den := Nat.mul_pos hden (Nat.two_pow_pos _)
  rw [hq, Nat.mul_comm _ q] at hlt hle
  have hpattern := patternUnits_of_lastPlace (hle.imp_right fun h => Nat.le_of_mul_le_mul_right h hd)
    (Nat.lt_of_mul_lt_mul_right hlt).le
  have hexact : q * 2 ^ lastPlace num den * den = num * 2 ^ 149 := by
    rw [hq]
    ring
  have hnearest := ((roundedPattern_spec hden hbound).1 _ ⟨_, hpattern⟩).1
  rw [distance_eq, distance_eq, hexact] at hnearest
  rw [units_round]
  omega

/-- Settles O31: below `2 ^ 24` the last place divides 1. -/
theorem smallIntegersConvertExactly : Obligations.SmallIntegersConvertExactly := by
  intro n hn
  have hbound : n.natAbs < (2 ^ 25 - 1) * 2 ^ 103 * 1 := hn.trans (by decide)
  have hlog : n.natAbs.log2 < 24 := by
    by_cases hzero : n.natAbs = 0
    · rw [hzero]
      decide
    · exact (Nat.log2_lt hzero).2 hn
  have hplace : lastPlace n.natAbs 1 ≤ 149 := by
    unfold lastPlace
    split <;> omega
  have hunits := units_round_of_dvd Nat.one_pos hbound
    (by rw [Nat.one_mul]; exact Dvd.dvd.mul_left (Nat.pow_dvd_pow 2 hplace) _) (decide (n < 0))
  rw [Nat.mul_one] at hunits
  refine ⟨isFinite_round Nat.one_pos hbound _, ?_⟩
  rw [i2f, value, isNeg_round, hunits]
  split
  · next h =>
    have hneg := of_decide_eq_true h
    omega
  · next h =>
    have hnonneg := of_decide_eq_false (Bool.eq_false_iff.2 h)
    omega

/-! ### The four operations -/

theorem isNeg_eq_msb (x : F32) : isNeg x = x.msb := (BitVec.msb_eq_decide x).symm

theorem isNeg_neg (x : F32) : isNeg (neg x) = !isNeg x := by
  rw [isNeg_eq_msb, isNeg_eq_msb, neg, BitVec.msb_xor]
  exact Bool.xor_true _

theorem toNat_neg_mod (x : F32) : (neg x).toNat % 2 ^ 31 = x.toNat % 2 ^ 31 := by
  rw [← BitVec.toNat_setWidth, ← BitVec.toNat_setWidth, neg, BitVec.setWidth_xor]
  exact congrArg BitVec.toNat (BitVec.xor_zero)

theorem isFinite_neg (x : F32) : isFinite (neg x) = isFinite x := by
  rw [Bool.eq_iff_iff, isFinite_iff, isFinite_iff, toNat_neg_mod]

theorem value_neg (x : F32) : value (neg x) = -value x := by
  have hunits : units (neg x) = units x := by rw [units_eq, units_eq, toNat_neg_mod]
  rw [value, value, isNeg_neg, hunits]
  cases isNeg x
  · rfl
  · exact (Int.neg_neg _).symm

theorem add_of_finite {x y : F32} (hx : isFinite x = true) (hy : isFinite y = true) : add x y =
    round (if value x + value y = 0 then isNeg x && isNeg y else value x + value y < 0) (value x + value y).natAbs (2 ^ 149) :=
  if_pos (by rw [hx, hy]; rfl)

theorem mul_of_finite {x y : F32} (hx : isFinite x = true) (hy : isFinite y = true) :
    mul x y = round (isNeg x != isNeg y) (units x * units y) (2 ^ 298) :=
  if_pos (by rw [hx, hy]; rfl)

theorem div_of_finite {x y : F32} (hx : isFinite x = true) (hy : isFinite y = true) (hzero : units y ≠ 0) :
    div x y = round (isNeg x != isNeg y) (units x) (units y) :=
  if_pos (by rw [hx, hy, bne_iff_ne.2 hzero]; rfl)

theorem isNeg_of_value_ne_zero {x : F32} (h : value x ≠ 0) : isNeg x = decide (value x < 0) := by
  have hunits := mt (value_eq_zero_iff x).2 h
  cases hneg : isNeg x
  · exact (decide_eq_false (by rw [value_of_not_isNeg hneg]; omega)).symm
  · exact (decide_eq_true (by rw [value_of_isNeg hneg]; omega)).symm

/-- The rule of signs. -/
theorem decide_mul_neg {a b : Int} (ha : a ≠ 0) (hb : b ≠ 0) : (decide (a < 0) != decide (b < 0)) = decide (a * b < 0) := by
  have hmul := Int.mul_neg_iff (a := a) (b := b)
  grind

section
variable {x y : F32} (hx : isFinite x = true) (hy : isFinite y = true)
include hx hy

theorem isNearest_add (hbound : Claims.representable (value x + value y) 1) : Claims.IsNearest (value x + value y) 1 (add x y) := by
  rw [add_of_finite hx hy]
  exact RoundsTo.isNearest ⟨Nat.two_pow_pos _, Nat.one_pos, (Nat.mul_one _).symm, fun hv => if_neg hv, hbound⟩

theorem isNeg_add : isNeg (add x y) = (if value x + value y = 0 then isNeg x && isNeg y else value x + value y < 0) := by
  rw [add_of_finite hx hy, isNeg_round]

theorem isNearest_mul (hbound : Claims.representable (value x * value y) (2 ^ 149)) :
    Claims.IsNearest (value x * value y) (2 ^ 149) (mul x y) := by
  rw [mul_of_finite hx hy]
  refine RoundsTo.isNearest ⟨by positivity, Nat.two_pow_pos _, ?_, fun hv => ?_, hbound⟩
  · rw [Int.natAbs_mul, natAbs_value, natAbs_value, show (298 : Nat) = 149 + 149 from rfl, Nat.pow_add, ← Nat.mul_assoc]
  · obtain ⟨hx0, hy0⟩ := Int.mul_ne_zero_iff.1 hv
    rw [isNeg_of_value_ne_zero hx0, isNeg_of_value_ne_zero hy0, decide_mul_neg hx0 hy0]

theorem isNeg_mul : isNeg (mul x y) = (isNeg x != isNeg y) := by
  rw [mul_of_finite hx hy, isNeg_round]

theorem isNearest_div (hzero : value y ≠ 0)
    (hbound : Claims.representable (value x * 2 ^ 149 * (value y).sign) (value y).natAbs) :
    Claims.IsNearest (value x * 2 ^ 149 * (value y).sign) (value y).natAbs (div x y) := by
  have hunits := mt (value_eq_zero_iff y).2 hzero
  have hpos := Nat.pos_of_ne_zero hunits
  have hsign := mt Int.sign_eq_zero_iff_zero.1 hzero
  rw [div_of_finite hx hy hunits]
  refine RoundsTo.isNearest ⟨hpos, by rwa [natAbs_value], ?_, fun hv => ?_, hbound⟩
  · rw [Int.natAbs_mul, Int.natAbs_mul, Int.natAbs_sign, if_neg hzero, natAbs_value, natAbs_value, Nat.mul_one]
    rfl
  · obtain ⟨hx149, -⟩ := Int.mul_ne_zero_iff.1 hv
    have hx0 : value x ≠ 0 := (Int.mul_ne_zero_iff.1 hx149).1
    have hneg : decide (value x < 0) = decide (value x * 2 ^ 149 < 0) := decide_eq_decide.2 (by omega)
    have hysign : decide (value y < 0) = decide ((value y).sign < 0) := decide_eq_decide.2 Int.sign_neg_iff.symm
    rw [isNeg_of_value_ne_zero hx0, isNeg_of_value_ne_zero hzero, hneg, hysign, decide_mul_neg hx149 hsign]

theorem isNeg_div (hzero : value y ≠ 0) : isNeg (div x y) = (isNeg x != isNeg y) := by
  rw [div_of_finite hx hy (mt (value_eq_zero_iff y).2 hzero), isNeg_round]

end

/-- Settles O33: a difference is the sum with the second operand turned. -/
theorem arithmeticIsCorrectlyRounded : Obligations.ArithmeticIsCorrectlyRounded := by
  intro x y hx hy
  have hy' := (isFinite_neg y).trans hy
  have hsub : value x + value (neg y) = value x - value y := by rw [value_neg, Int.sub_eq_add_neg]
  exact ⟨isNearest_add hx hy, hsub ▸ isNearest_add hx hy', isNearest_mul hx hy, isNearest_div hx hy, isNeg_add hx hy,
    (isNeg_add hx hy').trans (by rw [hsub, isNeg_neg]), isNeg_mul hx hy, isNeg_div hx hy⟩

end Sys2Proof.Machine.Binary32
end

section
/-! PROOFS. The square root of binary32 (R10): the integer root, with half a unit for the rest, lies on the same side of every middle
between two values as the exact root. -/

namespace Sys2Proof.Machine.Binary32

/-! ### The integer root -/

theorem isqrtFrom_spec {n i r : Nat} (hlow : r * r ≤ n) (hhigh : n < (r + 2 ^ i) * (r + 2 ^ i)) : isqrtFrom n i r = n.sqrt := by
  induction i generalizing r with
  | zero => exact Nat.eq_sqrt.2 ⟨hlow, hhigh⟩
  | succ i ih =>
    rw [isqrtFrom]
    split
    · next h => exact ih h (by rwa [Nat.add_assoc, ← Nat.two_mul, ← Nat.pow_succ'])
    · next h => exact ih hlow (Nat.lt_of_not_le h)

theorem units_lt {x : F32} (hx : isFinite x = true) : units x < 2 ^ 23 * 2 ^ 254 := by
  rw [units_eq, ← patternUnits_of_lastPlace (k := 254) (m := 2 ^ 23) (by decide) (by decide)]
  exact patternUnits_strictMono ((isFinite_iff x).1 hx)

/-- A number that lies on the same side of every middle between two values as twice the root of `n`. -/
def doubleRoot (n : Nat) : Nat := 2 * n.sqrt + if n.sqrt * n.sqrt = n then 0 else 1

theorem sqrt_eq {x : F32} (hx : isFinite x = true) (hvalue : 0 ≤ value x) :
    sqrt x = round (isNeg x) (doubleRoot (units x * 2 ^ 149)) (2 ^ 150) := by
  have hroot : isqrtFrom (units x * 2 ^ 149) 214 0 = (units x * 2 ^ 149).sqrt := by
    refine isqrtFrom_spec (Nat.zero_le _) ?_
    have hlt := units_lt hx
    omega
  have hdefined : (isFinite x && (!isNeg x || units x = 0)) = true := by
    rw [hx, Bool.true_and]
    cases h : isNeg x
    · rfl
    · rw [value_of_isNeg h] at hvalue
      exact decide_eq_true (by omega)
  rw [sqrt, if_pos hdefined]
  simp only [hroot]
  rfl

/-! ### The sides of the middles -/

theorem even_of_large {y : F32} (h : 2 ^ 24 ≤ value y) : value y % 2 = 0 := by
  have hunits := natAbs_value y
  rw [units_eq] at hunits
  obtain ⟨k, m, hp, hk, hm⟩ := exists_lastPlace (y.toNat % 2 ^ 31)
  rw [hp, patternUnits_of_lastPlace hk hm.le] at hunits
  cases k with
  | zero => omega
  | succ k =>
    rw [Nat.pow_succ, ← Nat.mul_assoc] at hunits
    omega

section
variable {n : Nat} {r : F32} (h : Claims.IsNearest (doubleRoot n) 2 r)
include h

theorem nearest_to_doubleRoot {y : F32} (hy : isFinite y = true) :
    (value r * 2 - doubleRoot n).natAbs ≤ (value y * 2 - doubleRoot n).natAbs ∧
      ((value r * 2 - doubleRoot n).natAbs = (value y * 2 - doubleRoot n).natAbs → value y ≠ value r → r.toNat % 2 = 0) :=
  h.2 y hy

theorem value_nonneg_of_nearest : 0 ≤ value r := by
  have hzero := (nearest_to_doubleRoot h (y := 0#32) (by decide)).1
  rw [show value 0#32 = 0 from by decide] at hzero
  omega

/-- The middle of the result and a value above it is not below the number, and of the result and a value below it not above. -/
theorem middle_of_nearest {y : F32} (hy : isFinite y = true) :
    (value r < value y → (doubleRoot n : Int) ≤ value r + value y) ∧ (value y < value r → value r + value y ≤ doubleRoot n) := by
  obtain ⟨hle, -⟩ := nearest_to_doubleRoot h hy
  omega

/-- The result is far above the last places that hold an odd number of units. -/
theorem large_of_nearest (hn : 2 ^ 149 ≤ n) : 2 ^ 25 ≤ value r := by
  have hlarge := (nearest_to_doubleRoot h (y := 0x01800000#32) (by decide)).1
  have hroot : 2 ^ 74 ≤ n.sqrt := Nat.le_sqrt.2 (by omega)
  have hdouble : 2 * n.sqrt ≤ doubleRoot n := Nat.le_add_right _ _
  rw [show value 0x01800000#32 = 2 ^ 25 from by decide] at hlarge
  omega

/-- An exact root: the number is the root's double, and on the middle the even value is the result. -/
theorem sides_of_exact (hexact : n.sqrt * n.sqrt = n) {y : F32} (hy : isFinite y = true) :
    (value r < value y → 4 * (n : Int) ≤ (value r + value y) ^ 2) ∧
      (0 ≤ value y → value y < value r → (value r + value y) ^ 2 ≤ 4 * n) ∧
      (0 ≤ value y → value r ≠ value y → 4 * (n : Int) = (value r + value y) ^ 2 → r.toNat % 2 = 0) := by
  have hpos := value_nonneg_of_nearest h
  obtain ⟨habove, hbelow⟩ := middle_of_nearest h hy
  have heven := (nearest_to_doubleRoot h hy).2
  have hsquare : 4 * (n : Int) = (doubleRoot n : Int) ^ 2 := by
    rw [doubleRoot, if_pos hexact]
    exact_mod_cast show 4 * n = (2 * n.sqrt) ^ 2 by rw [Nat.mul_pow, Nat.pow_two n.sqrt, hexact]
  rw [hsquare]
  refine ⟨fun hlt => pow_le_pow_left₀ (Int.natCast_nonneg _) (habove hlt) 2,
    fun hb hlt => pow_le_pow_left₀ (Int.add_nonneg hpos hb) (hbelow hlt) 2, fun hb hne heq => heven ?_ hne.symm⟩
  have hmiddle := (pow_left_inj₀ (Int.natCast_nonneg _) (Int.add_nonneg hpos hb) two_ne_zero).1 heq
  omega

/-- A root that is not exact: the middles are whole numbers, so none lies where the half unit stands. -/
theorem sides_of_inexact (hinexact : n.sqrt * n.sqrt ≠ n) (hn : 2 ^ 149 ≤ n) {y : F32} (hy : isFinite y = true) :
    (value r < value y → 4 * (n : Int) < (value r + value y) ^ 2) ∧
      (0 ≤ value y → value y < value r → (value r + value y) ^ 2 < 4 * (n : Int)) := by
  have hlarge := large_of_nearest h hn
  have hr_even : value r % 2 = 0 := even_of_large (by omega)
  have hdouble : doubleRoot n = 2 * n.sqrt + 1 := by rw [doubleRoot, if_neg hinexact]
  have hlow : (2 * n.sqrt : Int) ^ 2 < 4 * n := by
    have hlt : n.sqrt * n.sqrt < n := Nat.lt_of_le_of_ne (Nat.sqrt_le n) hinexact
    exact_mod_cast show (2 * n.sqrt) ^ 2 < 4 * n by rw [Nat.mul_pow, Nat.pow_two n.sqrt]; omega
  have hhigh : 4 * (n : Int) < (2 * n.sqrt + 2 : Int) ^ 2 := by
    have hlt : n < (n.sqrt + 1) * (n.sqrt + 1) := Nat.lt_succ_sqrt n
    exact_mod_cast show 4 * n < (2 * (n.sqrt + 1)) ^ 2 by rw [Nat.mul_pow, Nat.pow_two (n.sqrt + 1)]; omega
  constructor
  · intro hlt
    have hy_even : value y % 2 = 0 := even_of_large (by omega)
    have hmiddle := (middle_of_nearest h hy).1 hlt
    exact hhigh.trans_le (pow_le_pow_left₀ (by omega) (by omega) 2)
  · intro hb hlt
    have hmiddle : value r + value y ≤ 2 * n.sqrt := by
      rcases Int.lt_or_le (value y) (2 ^ 24) with hsmall | hsmall
      · have hunit := (middle_of_nearest h (y := 0x01000000#32) (by decide)).2
        rw [show value 0x01000000#32 = 2 ^ 24 from by decide] at hunit
        omega
      · have hy_even := even_of_large hsmall
        have hle := (middle_of_nearest h hy).2 hlt
        omega
    exact (pow_le_pow_left₀ (by omega) hmiddle 2).trans_lt hlow

end

/-! ### The operation -/

theorem roundsTo_doubleRoot {x : F32} (hx : isFinite x = true) (hvalue : 0 ≤ value x) :
    RoundsTo (isNeg x) (doubleRoot (units x * 2 ^ 149)) (2 ^ 150) (doubleRoot (units x * 2 ^ 149)) 2 where
  den_pos := Nat.two_pow_pos _
  d_pos := Nat.two_pos
  ratio := by
    rw [Int.natAbs_natCast]
    ring
  sign := fun hv => by
    have hunits : units x ≠ 0 := fun hzero => hv (by rw [hzero]; rfl)
    rw [isNeg_of_value_ne_zero (mt (value_eq_zero_iff x).1 hunits)]
    exact (decide_eq_false (by omega)).trans (decide_eq_false (by omega)).symm
  bound := by
    have hroot : (units x * 2 ^ 149).sqrt < 2 ^ 214 := Nat.sqrt_lt.2 (by have hlt := units_lt hx; omega)
    have hdouble : doubleRoot (units x * 2 ^ 149) ≤ 2 * (units x * 2 ^ 149).sqrt + 1 :=
      Nat.add_le_add_left (by split <;> decide) _
    rw [Claims.representable, Int.natAbs_natCast]
    omega

/-- Settles O34: the exact root by its square, the others by the whole middles. -/
theorem squareRootIsCorrectlyRounded : Obligations.SquareRootIsCorrectlyRounded := by
  intro x hx hvalue
  have hrounds := roundsTo_doubleRoot hx hvalue
  have hnearest := hrounds.isNearest
  have hn : value x * 2 ^ 149 = (units x * 2 ^ 149 : Nat) := by
    rw [← natAbs_value]
    omega
  simp only [hn, sqrt_eq hx hvalue]
  refine ⟨hnearest.1, isNeg_round .., value_nonneg_of_nearest hnearest, fun y hy => ?_⟩
  by_cases hexact : (units x * 2 ^ 149).sqrt * (units x * 2 ^ 149).sqrt = units x * 2 ^ 149
  · exact sides_of_exact hnearest hexact hy
  · have hlarge : 2 ^ 149 ≤ units x * 2 ^ 149 := Nat.le_mul_of_pos_left _ (Nat.pos_of_ne_zero fun hzero => hexact (by rw [hzero]; rfl))
    obtain ⟨habove, hbelow⟩ := sides_of_inexact hnearest hexact hlarge hy
    refine ⟨fun hlt => (habove hlt).le, fun hb hlt => (hbelow hb hlt).le, fun hb hne heq => ?_⟩
    rcases Int.lt_or_gt_of_ne hne with hlt | hlt
    · exact absurd heq (habove hlt).ne
    · exact absurd heq (hbelow hb hlt).ne'

end Sys2Proof.Machine.Binary32
end

section
/-! PROOFS. The corner cases of the stick normalizer (R170): a sample at center, and one at a bound. -/

namespace Sys2Proof.Machine

namespace Binary32

/-! ### Quotients of small integers -/

section
variable {n : Int} (hn : n.natAbs < 2 ^ 24)
include hn

theorem isFinite_i2f : isFinite (i2f n) = true := (smallIntegersConvertExactly n hn).1

theorem units_i2f : units (i2f n) = n.natAbs * 2 ^ 149 := by
  rw [← natAbs_value, (smallIntegersConvertExactly n hn).2, Int.natAbs_mul]
  rfl

end

theorem div_i2f {a n : Int} (ha : a.natAbs < 2 ^ 24) (hn : n.natAbs < 2 ^ 24) (hpos : 0 < n) :
    div (i2f a) (i2f n) = round (a < 0) (a.natAbs * 2 ^ 149) (n.natAbs * 2 ^ 149) := by
  have hneg : isNeg (i2f n) = false := (isNeg_round ..).trans (decide_eq_false (by omega))
  rw [div_of_finite (isFinite_i2f ha) (isFinite_i2f hn) (by rw [units_i2f hn]; omega), units_i2f ha, units_i2f hn, hneg,
    Bool.bne_false]
  exact congrArg (round · _ _) (isNeg_round ..)

theorem round_zero (den : Nat) : round false 0 den = 0#32 := rfl

/-- The sign and the magnitude are the value. -/
theorem eq_of_isNeg_of_units {x y : F32} (hneg : isNeg x = isNeg y) (hunits : units x = units y) : x = y := by
  rw [units_eq, units_eq] at hunits
  have hmod := patternUnits_strictMono.injective hunits
  have hsign : 2 ^ 31 ≤ x.toNat ↔ 2 ^ 31 ≤ y.toNat := decide_eq_decide.1 hneg
  have hx := x.isLt
  have hy := y.isLt
  exact BitVec.eq_of_toNat_eq (by omega)

/-- A number over itself is 1, exactly. -/
theorem round_self (neg : Bool) {u : Nat} (hu : 0 < u) : round neg u u = if neg then 0xBF800000#32 else 0x3F800000#32 := by
  have hplace : lastPlace u u = 126 := by
    rw [lastPlace, if_neg (Nat.lt_irrefl _)]
    omega
  have hunits := units_round_of_dvd (num := u) hu (by omega)
    (by rw [hplace]; exact Nat.mul_dvd_mul_left u (Nat.pow_dvd_pow 2 (by decide))) neg
  rw [Nat.mul_comm] at hunits
  refine eq_of_isNeg_of_units ((isNeg_round ..).trans ?_) ((Nat.eq_of_mul_eq_mul_left hu hunits).trans ?_)
  · cases neg <;> decide
  · cases neg <;> decide

end Binary32

/-! ### The fractions -/

section
variable {raw lo c hi : Word} (h : Claims.goodTriple lo c hi)
include h

theorem clamped_center : Claims.clamped c lo hi = c.toNat := by
  obtain ⟨hlo, hhi, -⟩ := h
  unfold Claims.clamped
  omega

theorem fraction_center (hlt : c.toNat < hi.toNat) : Claims.fraction c lo c hi = 0x00000000#32 := by
  obtain ⟨-, -, hmax⟩ := id h
  rw [Claims.fraction, clamped_center h, if_pos (le_refl _), Int.sub_self, Binary32.div_i2f (by decide) (by omega) (by omega)]
  exact Binary32.round_zero _

theorem clamped_high (hraw : hi.toNat ≤ raw.toNat) : Claims.clamped raw lo hi = hi.toNat := by
  obtain ⟨hlo, hhi, -⟩ := h
  unfold Claims.clamped
  omega

theorem fraction_high (hlt : c.toNat < hi.toNat) (hraw : hi.toNat ≤ raw.toNat) : Claims.fraction raw lo c hi = 0x3F800000#32 := by
  obtain ⟨-, -, hmax⟩ := id h
  rw [Claims.fraction, clamped_high h hraw, if_pos (by omega), Binary32.div_i2f (by omega) (by omega) (by omega),
    Binary32.round_self _ (by omega), if_neg (by rw [decide_eq_true_iff]; omega)]

theorem clamped_low (hraw : raw.toNat ≤ lo.toNat) : Claims.clamped raw lo hi = lo.toNat := by
  obtain ⟨hlo, hhi, -⟩ := h
  unfold Claims.clamped
  omega

theorem fraction_low (hlt : lo.toNat < c.toNat) (hraw : raw.toNat ≤ lo.toNat) : Claims.fraction raw lo c hi = 0xBF800000#32 := by
  obtain ⟨-, hhi, hmax⟩ := id h
  have habs : ((lo.toNat : Int) - c.toNat).natAbs = ((c.toNat : Int) - lo.toNat).natAbs := by omega
  rw [Claims.fraction, clamped_low h hraw, if_neg (by omega), Binary32.div_i2f (by omega) (by omega) (by omega), habs,
    Binary32.round_self _ (by omega), if_pos (by rw [decide_eq_true_iff]; omega)]

end

theorem not_zeroDivisor_of_lt {c hi : Word} (hlt : c.toNat < hi.toNat) (raw lo : Word) : ¬ Claims.zeroDivisor raw lo c hi := by
  rintro ⟨rfl, -⟩
  exact Nat.lt_irrefl _ hlt

theorem not_zeroDivisor_of_low {raw lo c hi : Word} (h : Claims.goodTriple lo c hi) (hlt : lo.toNat < c.toNat)
    (hraw : raw.toNat ≤ lo.toNat) : ¬ Claims.zeroDivisor raw lo c hi := by
  rintro ⟨-, hsample⟩
  rw [clamped_low h hraw] at hsample
  omega

/-! ### The lanes -/

theorem lanes_center : Claims.lanes 0x00000000#32 0x00000000#32 = (0x00000000#32, 0x00000000#32) := by decide +kernel

theorem lanes_one : Claims.lanes 0x3F800000#32 0x00000000#32 = (0x3F800000#32, 0x00000000#32) := by decide +kernel

theorem lanes_minus_one : Claims.lanes 0xBF800000#32 0x00000000#32 = (0xBF800000#32, 0x00000000#32) := by decide +kernel

/-- Settles O28: both fractions are zero, and so is the magnitude. -/
theorem normCenterGivesZero : Obligations.NormCenterGivesZero := by
  intro xmin xc xmax ymin yc ymax s hx hy hxlt hylt
  rw [normComputesThePipeline _ _ _ _ _ _ _ _ s hx hy (not_zeroDivisor_of_lt hxlt _ _) (not_zeroDivisor_of_lt hylt _ _),
    fraction_center hx hxlt, fraction_center hy hylt, lanes_center]
  rfl

/-- Settles O29: the fractions are 1 or -1 and 0, whose lanes the arithmetic finds. -/
theorem normFullDeflectionGivesOne : Obligations.NormFullDeflectionGivesOne := by
  intro raw xmin xc xmax ymin yc ymax s hx hy hylt
  have hzy := not_zeroDivisor_of_lt hylt yc ymin
  refine ⟨fun hxlt hraw => ?_, fun hxlt hraw => ?_⟩
  · rw [normComputesThePipeline _ _ _ _ _ _ _ _ s hx hy (not_zeroDivisor_of_lt hxlt _ _) hzy, fraction_high hx hxlt hraw,
      fraction_center hy hylt, lanes_one]
    rfl
  · rw [normComputesThePipeline _ _ _ _ _ _ _ _ s hx hy (not_zeroDivisor_of_low hx hxlt hraw) hzy, fraction_low hx hxlt hraw,
      fraction_center hy hylt, lanes_minus_one]
    rfl

end Sys2Proof.Machine
end
